-- ==== Sys2Proof/Word.lean ====
section
/-! DEFINITION. The word the registers hold and the byte a bus lane carries (spec/10_state.md R30, spec/20_memory.md R63). -/

namespace Sys2Proof

/-- A register's 32-bit pattern: "Every register is 32 bits wide" (10_state.md R30). -/
abbrev Word := BitVec 32

/-- What one byte lane of the bus carries (20_memory.md R63). -/
abbrev Byte := BitVec 8

end Sys2Proof
end

