-- ==== Sys2Proof/Syntax.lean ====
section
/-! DEFINITION. The 17 commands of spec/opcode_table.json as one inductive (spec/30_encoding.md R98, R103). -/

namespace Sys2Proof

/-- The kind of an operand of ADD, SUB, MUL and DIV (30_encoding.md R93): canonical, explicit scale with its count of
fractional bits, or native integer. The kind specifiers of R103 are `C`, `X(n)` and `I`. -/
inductive OperandKind where
  | can
  | exp (frac : Int)
  | int
deriving DecidableEq, Repr

/-- The constant that CONST's selector names (30_encoding.md R96, 10_state.md R41). -/
inductive ConstName where
  | zero
  | one
  | half
  | hpi
  | pi
  | tau
  | e
deriving DecidableEq, Repr

/-- The commands, one constructor per row of the opcode table (30_encoding.md R98, R100). -/
inductive Instr where
  | add (ka kb : OperandKind)
  | sub (ka kb : OperandKind)
  | mul (ka kb : OperandKind)
  | div (ka kb : OperandKind)
  | const (k : ConstName)
  | fromRaw
  | fromI32
  | fromDecimal
  | toI32
  | neg
  | abs
  | cmp
  | clamp
  | sin
  | sinDimless
  | inverse
  | invI32
deriving DecidableEq, Repr

end Sys2Proof
end

