-- ==== Sys2Proof/WellFormed.lean ====
section
/-! DEFINITION. When a command can be written as a command word: its explicit scales fit FA and FB
(spec/30_encoding.md R94, R103). -/

namespace Sys2Proof

/-- "`X(n)` (EXP with `frac_bits = n`, `-128 <= n <= 127`)" (30_encoding.md R103). -/
def OperandKind.wellFormed : OperandKind → Bool
  | .can => true
  | .exp n => decide (-128 ≤ n ∧ n ≤ 127)
  | .int => true

/-- Both operands of a two-operand command are well formed; no other command has a field that can be ill formed. -/
def Instr.wellFormed : Instr → Bool
  | .add ka kb => ka.wellFormed && kb.wellFormed
  | .sub ka kb => ka.wellFormed && kb.wellFormed
  | .mul ka kb => ka.wellFormed && kb.wellFormed
  | .div ka kb => ka.wellFormed && kb.wellFormed
  | .const _ => true
  | .fromRaw => true
  | .fromI32 => true
  | .fromDecimal => true
  | .toI32 => true
  | .neg => true
  | .abs => true
  | .cmp => true
  | .clamp => true
  | .sin => true
  | .sinDimless => true
  | .inverse => true
  | .invI32 => true

/-- A command that the encoding admits. -/
abbrev Instr.WellFormed (i : Instr) : Prop := i.wellFormed = true

end Sys2Proof
end

