-- ==== Sys2Proof/Decode.lean ====
section
/-! DEFINITION. The command word: its fields, the decoder (total, rejecting by name), the encoder, and the opcode map as
rows of match and mask (spec/30_encoding.md R90 to R101, spec/opcode_table.json). -/

namespace Sys2Proof

/-! The fields of 30_encoding.md R91. -/

def opField (w : Word) : BitVec 5 := w.extractLsb' 0 5
def rsvField (w : Word) : BitVec 3 := w.extractLsb' 5 3
def kaField (w : Word) : BitVec 2 := w.extractLsb' 8 2
def kbField (w : Word) : BitVec 2 := w.extractLsb' 10 2
def kselField (w : Word) : BitVec 4 := w.extractLsb' 12 4
def faField (w : Word) : BitVec 8 := w.extractLsb' 16 8
def fbField (w : Word) : BitVec 8 := w.extractLsb' 24 8

/-- Bits 31 to 8: every field but OP and RSV. "For every other opcode: `v[31:8] = 0`" (30_encoding.md R99 item 5). -/
def upperField (w : Word) : BitVec 24 := w.extractLsb' 8 24

/-- Why a word is no command. All of these are the one status ILLEGAL_COMMAND (30_encoding.md R99, R101). -/
inductive Reject where
  /-- RSV is nonzero (R99 item 1). -/
  | reservedBits
  /-- OP 0x05, the modulo operator, reserved (41_scaled_arith.md R142). -/
  | modulo
  /-- An opcode that is none of the 17 (R99 item 2). -/
  | reservedOpcode
  /-- Kind code 0b11 (R93, R99 item 3). -/
  | reservedKind
  /-- FA or FB is nonzero and its kind is not EXP (R99 item 3). -/
  | scaleWithoutExp
  /-- KSEL above 6 for CONST (R96, R99 item 4). -/
  | reservedSelector
  /-- A field that the opcode does not use is nonzero (R99 items 3 to 5). -/
  | unusedField
  /-- Not the four bytes of one word: "A decoder always reads exactly 32 bits" (R90). -/
  | notOneWord
deriving DecidableEq, Repr

/-- A kind code with its scale field (30_encoding.md R93, R94, R99 item 3). -/
def decodeKind (k : BitVec 2) (f : BitVec 8) : Except Reject OperandKind :=
  if k = 0b01#2 then .ok (.exp f.toInt)
  else if k = 0b11#2 then .error .reservedKind
  else if f ≠ 0#8 then .error .scaleWithoutExp
  else if k = 0b00#2 then .ok .can
  else .ok .int

/-- The selector of CONST (30_encoding.md R96). -/
def decodeSelector (k : BitVec 4) : Except Reject ConstName :=
  match k.toNat with
  | 0 => .ok .zero
  | 1 => .ok .one
  | 2 => .ok .half
  | 3 => .ok .hpi
  | 4 => .ok .pi
  | 5 => .ok .tau
  | 6 => .ok .e
  | _ => .error .reservedSelector

/-- ADD, SUB, MUL, DIV: KSEL must be 0, and the two kinds with their scales (30_encoding.md R99 item 3). -/
def decodeArith (w : Word) (mk : OperandKind → OperandKind → Instr) : Except Reject Instr :=
  if kselField w ≠ 0#4 then .error .unusedField
  else
    match decodeKind (kaField w) (faField w), decodeKind (kbField w) (fbField w) with
    | .ok ka, .ok kb => .ok (mk ka kb)
    | .error e, _ => .error e
    | .ok _, .error e => .error e

/-- CONST: the kinds and scales must be 0 (30_encoding.md R99 item 4). -/
def decodeConst (w : Word) : Except Reject Instr :=
  if kaField w ≠ 0#2 ∨ kbField w ≠ 0#2 ∨ faField w ≠ 0#8 ∨ fbField w ≠ 0#8 then .error .unusedField
  else
    match decodeSelector (kselField w) with
    | .ok k => .ok (.const k)
    | .error e => .error e

/-- A command without fields (30_encoding.md R99 item 5). -/
def decodePlain (w : Word) (i : Instr) : Except Reject Instr :=
  if upperField w ≠ 0#24 then .error .unusedField else .ok i

/-- The decoder: the opcode map of 30_encoding.md R100 under the legality test of R99. -/
def decode (w : Word) : Except Reject Instr :=
  if rsvField w ≠ 0#3 then .error .reservedBits
  else
    match (opField w).toNat with
    | 0x01 => decodeArith w .add
    | 0x02 => decodeArith w .sub
    | 0x03 => decodeArith w .mul
    | 0x04 => decodeArith w .div
    | 0x05 => .error .modulo
    | 0x08 => decodeConst w
    | 0x09 => decodePlain w .fromRaw
    | 0x0A => decodePlain w .fromI32
    | 0x0B => decodePlain w .fromDecimal
    | 0x0C => decodePlain w .toI32
    | 0x0D => decodePlain w .neg
    | 0x0E => decodePlain w .abs
    | 0x0F => decodePlain w .cmp
    | 0x10 => decodePlain w .clamp
    | 0x14 => decodePlain w .sin
    | 0x15 => decodePlain w .sinDimless
    | 0x18 => decodePlain w .inverse
    | 0x19 => decodePlain w .invI32
    | _ => .error .reservedOpcode

/-- The word that four byte lanes carry, lane 0 lowest (20_memory.md R63). -/
def wordOfLanes (b0 b1 b2 b3 : Byte) : Word := (b3 ++ b2 ++ b1 ++ b0).cast rfl

/-- The decoder on the bytes of a command as the lanes carry them, total on every list of bytes. -/
def decodeBytes : List Byte → Except Reject Instr
  | [b0, b1, b2, b3] => decode (wordOfLanes b0 b1 b2 b3)
  | _ => .error .notOneWord

/-- The bits of an opcode-table row as a command word: bit `i` of the table's number is bit `i` of the word, and every
bit above `nbits` is 0. -/
def tableWord (nbits w : Nat) : Word := BitVec.ofNat 32 (w % 2 ^ nbits)

/-- The command the decoder reads from an opcode-table word. -/
def decodeTableWord (nbits w : Nat) : Option Instr :=
  match decode (tableWord nbits w) with
  | .ok i => some i
  | .error _ => none

/-! The encoder, written from the same tables. -/

/-- The code of a kind (30_encoding.md R93). -/
def OperandKind.code : OperandKind → BitVec 2
  | .can => 0b00#2
  | .exp _ => 0b01#2
  | .int => 0b10#2

/-- The scale field of a kind: 0 unless EXP (30_encoding.md R94). -/
def OperandKind.scale : OperandKind → BitVec 8
  | .can => 0#8
  | .exp n => BitVec.ofInt 8 n
  | .int => 0#8

/-- The selector of a constant (30_encoding.md R96). -/
def ConstName.selector : ConstName → BitVec 4
  | .zero => 0#4
  | .one => 1#4
  | .half => 2#4
  | .hpi => 3#4
  | .pi => 4#4
  | .tau => 5#4
  | .e => 6#4

/-- The operation code (30_encoding.md R98, R100). -/
def Instr.opcode : Instr → BitVec 5
  | .add _ _ => 0x01#5
  | .sub _ _ => 0x02#5
  | .mul _ _ => 0x03#5
  | .div _ _ => 0x04#5
  | .const _ => 0x08#5
  | .fromRaw => 0x09#5
  | .fromI32 => 0x0A#5
  | .fromDecimal => 0x0B#5
  | .toI32 => 0x0C#5
  | .neg => 0x0D#5
  | .abs => 0x0E#5
  | .cmp => 0x0F#5
  | .clamp => 0x10#5
  | .sin => 0x14#5
  | .sinDimless => 0x15#5
  | .inverse => 0x18#5
  | .invI32 => 0x19#5

/-- `BBBBBBBB AAAAAAAA SSSS bbaa 000 ooooo` (30_encoding.md R91). -/
def packWord (fb fa : BitVec 8) (ksel : BitVec 4) (kb ka : BitVec 2) (op : BitVec 5) : Word :=
  (fb ++ fa ++ ksel ++ kb ++ ka ++ 0#3 ++ op).cast rfl

/-- A two-operand command's word. -/
def encodeArith (op : BitVec 5) (ka kb : OperandKind) : Word :=
  packWord kb.scale ka.scale 0#4 kb.code ka.code op

/-- The command word (30_encoding.md R91, R98). -/
def encode (i : Instr) : Word :=
  match i with
  | .add ka kb => encodeArith i.opcode ka kb
  | .sub ka kb => encodeArith i.opcode ka kb
  | .mul ka kb => encodeArith i.opcode ka kb
  | .div ka kb => encodeArith i.opcode ka kb
  | .const k => packWord 0#8 0#8 k.selector 0#2 0#2 i.opcode
  | .fromRaw => packWord 0#8 0#8 0#4 0#2 0#2 i.opcode
  | .fromI32 => packWord 0#8 0#8 0#4 0#2 0#2 i.opcode
  | .fromDecimal => packWord 0#8 0#8 0#4 0#2 0#2 i.opcode
  | .toI32 => packWord 0#8 0#8 0#4 0#2 0#2 i.opcode
  | .neg => packWord 0#8 0#8 0#4 0#2 0#2 i.opcode
  | .abs => packWord 0#8 0#8 0#4 0#2 0#2 i.opcode
  | .cmp => packWord 0#8 0#8 0#4 0#2 0#2 i.opcode
  | .clamp => packWord 0#8 0#8 0#4 0#2 0#2 i.opcode
  | .sin => packWord 0#8 0#8 0#4 0#2 0#2 i.opcode
  | .sinDimless => packWord 0#8 0#8 0#4 0#2 0#2 i.opcode
  | .inverse => packWord 0#8 0#8 0#4 0#2 0#2 i.opcode
  | .invI32 => packWord 0#8 0#8 0#4 0#2 0#2 i.opcode

/-- A row of spec/opcode_table.json: the words `w` with `w &&& mask = pattern` that meet R99 are the row's. -/
structure OpcodeRow where
  mnemonic : String
  pattern  : Word
  mask     : Word
deriving DecidableEq, Repr

/-- The row of each command, as spec/opcode_table.json has it. -/
def Instr.row : Instr → OpcodeRow
  | .add _ _ => ⟨"ADD", 0x00000001#32, 0x0000F0FF#32⟩
  | .sub _ _ => ⟨"SUB", 0x00000002#32, 0x0000F0FF#32⟩
  | .mul _ _ => ⟨"MUL", 0x00000003#32, 0x0000F0FF#32⟩
  | .div _ _ => ⟨"DIV", 0x00000004#32, 0x0000F0FF#32⟩
  | .const _ => ⟨"CONST", 0x00000008#32, 0xFFFF0FFF#32⟩
  | .fromRaw => ⟨"FROM_RAW", 0x00000009#32, 0xFFFFFFFF#32⟩
  | .fromI32 => ⟨"FROM_I32", 0x0000000A#32, 0xFFFFFFFF#32⟩
  | .fromDecimal => ⟨"FROM_DECIMAL", 0x0000000B#32, 0xFFFFFFFF#32⟩
  | .toI32 => ⟨"TO_I32", 0x0000000C#32, 0xFFFFFFFF#32⟩
  | .neg => ⟨"NEG", 0x0000000D#32, 0xFFFFFFFF#32⟩
  | .abs => ⟨"ABS", 0x0000000E#32, 0xFFFFFFFF#32⟩
  | .cmp => ⟨"CMP", 0x0000000F#32, 0xFFFFFFFF#32⟩
  | .clamp => ⟨"CLAMP", 0x00000010#32, 0xFFFFFFFF#32⟩
  | .sin => ⟨"SIN", 0x00000014#32, 0xFFFFFFFF#32⟩
  | .sinDimless => ⟨"SIN_DIMLESS", 0x00000015#32, 0xFFFFFFFF#32⟩
  | .inverse => ⟨"INVERSE", 0x00000018#32, 0xFFFFFFFF#32⟩
  | .invI32 => ⟨"INV_I32", 0x00000019#32, 0xFFFFFFFF#32⟩

/-- A word lies under a row. -/
def OpcodeRow.covers (r : OpcodeRow) (w : Word) : Bool := w &&& r.mask == r.pattern

/-- The 17 rows in the table's order; the kinds and the selector do not matter to a row. -/
def opcodeTable : List OpcodeRow :=
  [Instr.add .can .can, .sub .can .can, .mul .can .can, .div .can .can, .const .zero].map Instr.row
    ++ [Instr.fromRaw, .fromI32, .fromDecimal, .toI32, .neg, .abs, .cmp, .clamp].map Instr.row
    ++ [Instr.sin, .sinDimless, .inverse, .invI32].map Instr.row

end Sys2Proof
end

