-- ==== Sys2Proof/Config.lean ====
section
/-! DEFINITION. What is fixed when an FXU is built (spec/00_scope.md R6) and the two OPEN parameters, which have no body. The
values that are the spec's own decisions (the saturation bound, the seed rule, the remap) stand in Machine/Constants.lean. -/

namespace Sys2Proof.Config

/-- Canonical fractional bits, 20 and fixed at build time (00_scope.md R6, R7). -/
def F : Nat := 20

/-- Width of a raw value (00_scope.md R6). -/
def W : Nat := 32

/-- Width of the intermediate of MUL and DIV (00_scope.md R6). -/
def WI : Nat := 64

/-- The reciprocal series' budget of terms (00_scope.md R6). -/
def serMax : Nat := 11

/-- The reciprocal series' term threshold, in raw units (00_scope.md R6). -/
def serTh : Int := 100

/-- The Newton-Raphson budget of steps (00_scope.md R6). -/
def nrMax : Nat := 8

/-- The Newton-Raphson threshold, in raw units (00_scope.md R6). -/
def nrTh : Int := 100

/-- Version of the FXU-CMD command set, readable in INFO[15:8] (10_state.md R40). -/
def version : Nat := 1

/-- The three seed rules of Newton-Raphson (44_reciprocal.md R247, 90_conflicts.md C1). -/
inductive NrSeed where
  | halfBracket
  | literal
  | above
deriving DecidableEq, Repr

/-- The build parameters for which the spec keeps alternatives, and which the engines take as an argument
(44_reciprocal.md R247, 43_sine.md R214, 93_implementation_defined.md). -/
structure Build where
  nrSeed       : NrSeed
  dlRemapShift : Nat
deriving DecidableEq, Repr

/-- OPEN: which multiple of 32 the platform places the window at (20_memory.md R61, 92_eei_decisions.md D2). -/
opaque baseIndex : Nat

/-- `BASE`, "must be a multiple of 32" (20_memory.md R61). -/
def base : Nat := 32 * baseIndex

/-- OPEN: the latency of a command, from its word and the three operand registers; a Nat, so finite
(70_reset_and_hazards.md R324). "No rule of this spec depends on its value", and nothing in the model does. -/
opaque latency (v a b c : Word) : Nat

end Sys2Proof.Config
end

