-- ==== Sys2Proof/Machine/State.lean ====
section
/-! DEFINITION. The state of the FXU as plain data: its registers (spec/10_state.md R30) and the two ends of its target
port (spec/20_memory.md R62, R70); the reasons to stop, of which the spec has none; the state after reset. -/

namespace Sys2Proof.Machine

/-- The seven registers of the window (10_state.md R30). -/
inductive Reg where
  | cmd
  | opa
  | opb
  | opc
  | res
  | status
  | info
deriving DecidableEq, Repr

/-- What can arrive at the FXU from outside (20_memory.md R62, 70_reset_and_hazards.md R320, R325). `off` is the offset of
the address from `BASE`, `n` the width in bytes. -/
inductive PortEvent where
  /-- `MemRead(BASE + off, n)` (20_memory.md R62). -/
  | read (off n : Nat)
  /-- `MemWrite(BASE + off, n, v)` (20_memory.md R62); the data of a width other than 4 reaches nothing (entry 12). -/
  | write (off n : Nat) (v : Word)
  /-- Reset while no command is in progress (70_reset_and_hazards.md R320). -/
  | reset
  /-- Reset while the command `v` of an accepted CMD write is in progress (70_reset_and_hazards.md R320; entry 5). -/
  | resetDuringCommand (v : Word)
  /-- An accepted write of `v` to CMD that the platform aborts or times out while it stalls (70_reset_and_hazards.md R325;
  entry 5). -/
  | cmdWriteAborted (v : Word)
deriving DecidableEq, Repr

/-- The port's answer to a transaction (20_memory.md R62). -/
inductive Response where
  /-- `OKAY` to a read, with the data. -/
  | readOkay (data : Word)
  /-- `OKAY` to a write. -/
  | writeOkay
  /-- `ERROR` to a read, with the data value it returns. -/
  | readError (data : Word)
  /-- `ERROR` to a write. -/
  | writeError
  /-- What the host sees is the platform's concern (70_reset_and_hazards.md R325). -/
  | leftToPlatform
deriving DecidableEq, Repr

/-- The machine's state. INFO is hard-wired (10_state.md R40) and has no field; `readReg` gives it. -/
structure State where
  /-- CMD, the last word written to it, legal or not (10_state.md R35). -/
  cmd      : Word
  /-- OPA (10_state.md R32). -/
  opa      : Word
  /-- OPB (10_state.md R33). -/
  opb      : Word
  /-- OPC (10_state.md R34). -/
  opc      : Word
  /-- RES, the result of the last command that succeeded (10_state.md R36). -/
  res      : Word
  /-- STATUS, with CODE in bits 3 to 0 and ERRS in bit 8 (10_state.md R37). -/
  status   : Word
  /-- The model's own: the events that wait at the port, oldest first (20_memory.md R70; entry 1). -/
  port     : List PortEvent
  /-- The model's own: the answer to the last transaction served; none if there was none since reset (entry 2). -/
  response : Option Response
deriving DecidableEq, Repr

/-- Reasons for the machine to stop. There is no constructor: the spec stops the FXU nowhere ("There is no `stuck` case:
every command ends", 93_implementation_defined.md), errors are status codes (60_exceptions.md R287), and a refused
transaction is answered ERROR (20_memory.md R62). Safe. -/
inductive Fault where
deriving DecidableEq, Repr

/-- Reasons to refuse an instruction. -/
inductive Refusal where
  /-- An instruction without a meaning yet, by its mnemonic; raised by `exec`'s refused arms only, of which there are
  none now. Safe: the model stops. -/
  | notModelled (mnemonic : String)
deriving DecidableEq, Repr

/-- The state right after reset: every register 0 (10_state.md R30, R45, 70_reset_and_hazards.md R320); nothing waits at
the port and nothing was answered (entries 1 and 2). -/
def State.reset : State where
  cmd := 0#32
  opa := 0#32
  opb := 0#32
  opc := 0#32
  res := 0#32
  status := 0#32
  port := []
  response := none

end Sys2Proof.Machine
end

