-- ==== Sys2Proof/Machine/Flags.lean ====
section
/-! DEFINITION. The STATUS register's fields and the status codes (spec/10_state.md R37 to R39, spec/60_exceptions.md R280).
The FXU has no condition codes, no carry and no overflow flag (10_state.md R43), so this is all the flag computation there is. -/

namespace Sys2Proof.Machine

/-- The error conditions (60_exceptions.md R280). OK is no error: a command that ends OK has a result. -/
inductive ErrorCode where
  | divisionByZero
  | invalidRange
  | convergenceFailure
  | illegalCommand
  | domainError
deriving DecidableEq, Repr

/-- The number of an error condition in STATUS.CODE (60_exceptions.md R280). -/
def ErrorCode.number : ErrorCode → BitVec 4
  | .divisionByZero => 1#4
  | .invalidRange => 2#4
  | .convergenceFailure => 3#4
  | .illegalCommand => 4#4
  | .domainError => 5#4

/-- The number of OK in STATUS.CODE (60_exceptions.md R280). -/
def okNumber : BitVec 4 := 0#4

/-- STATUS.CODE (10_state.md R37). -/
def statusCode (st : Word) : BitVec 4 := st.extractLsb' 0 4

/-- STATUS.ERRS (10_state.md R37). -/
def statusErrs (st : Word) : Bool := st.getLsbD 8

/-- STATUS with a new CODE and every other bit kept (10_state.md R38). -/
def statusWithCode (st : Word) (c : BitVec 4) : Word := (st.extractLsb' 4 28 ++ c).cast rfl

/-- STATUS with ERRS set (10_state.md R39). -/
def statusSetErrs (st : Word) : Word := st ||| 0x00000100#32

/-- STATUS with ERRS cleared (10_state.md R39). -/
def statusClearErrs (st : Word) : Word := st &&& 0xFFFFFEFF#32

/-- What a command that ends OK leaves in STATUS: CODE 0, ERRS as it was (10_state.md R38, R39). -/
def statusAfterOk (st : Word) : Word := statusWithCode st okNumber

/-- What a command that ends with an error leaves in STATUS (60_exceptions.md R287). -/
def statusAfterError (st : Word) (c : ErrorCode) : Word := statusSetErrs (statusWithCode st c.number)

/-- What a host write of `v` leaves in STATUS: write 1 to bit 8 clears ERRS, no other bit changes (20_memory.md R67). -/
def statusAfterHostWrite (st v : Word) : Word := if v.getLsbD 8 then statusClearErrs st else st

/-- STATUS as it is read: every bit that is not CODE or ERRS reads 0 (10_state.md R37). -/
def statusView (st : Word) : Word := st &&& 0x0000010F#32

end Sys2Proof.Machine
end

