-- ==== Sys2Proof/Machine/Ops.lean ====
section
/-! DEFINITION. The shared operations: the number primitives of spec/00_scope.md R10 and spec/41_scaled_arith.md R130, the
end of a command and the raising of an error (spec/30_encoding.md R108, spec/60_exceptions.md R287), and the register
window (spec/20_memory.md R61 to R67). -/

namespace Sys2Proof.Machine

open Sys2Proof.Config (F)

/-! ### Updates of one field -/

def State.setCmd (s : State) (v : Word) : State := { s with cmd := v }
def State.setOpa (s : State) (v : Word) : State := { s with opa := v }
def State.setOpb (s : State) (v : Word) : State := { s with opb := v }
def State.setOpc (s : State) (v : Word) : State := { s with opc := v }
def State.setRes (s : State) (v : Word) : State := { s with res := v }
def State.setStatus (s : State) (v : Word) : State := { s with status := v }
def State.setPort (s : State) (p : List PortEvent) : State := { s with port := p }
def State.setResponse (s : State) (r : Option Response) : State := { s with response := r }

/-! ### Number primitives, on integers of unbounded size -/

/-- `2^k` as an integer. -/
def pow2 (k : Nat) : Int := ((2 ^ k : Nat) : Int)

/-- `wrap_N(v)`: two's-complement truncation to `N` bits, read back as signed (00_scope.md R10). -/
def wrap (N : Nat) (v : Int) : Int := Int.bmod v (2 ^ N)

/-- `sext_32(w)`: the signed value of a register's pattern (00_scope.md R10). -/
abbrev sext (w : Word) : Int := w.toInt

/-- The 32-bit pattern that a result leaves in a register: `wrap_32(r)` (30_encoding.md R108). -/
def pattern (r : Int) : Word := BitVec.ofInt 32 r

/-- `asr(v, s) = floor(v / 2^s)` (00_scope.md R10). -/
def asr (v : Int) (s : Nat) : Int := v / pow2 s

/-- `tdiv(a, b)`: the quotient rounded toward zero (00_scope.md R10). -/
def tdiv (a b : Int) : Int := Int.tdiv a b

/-- `wabs_32(a)`: the absolute value with wraparound (42_canonical_ops.md R176). -/
def wabs (a : Int) : Int := if a < 0 then wrap 32 (-a) else a

/-- `shift_N(v, s)`: a left shift for negative `s`, an arithmetic right shift otherwise; by `N` or more, 0 to the left and
the sign fill to the right (41_scaled_arith.md R130). -/
def shift (N : Nat) (v s : Int) : Int :=
  if s < 0 then
    if -s ≥ (N : Int) then 0 else wrap N (v * pow2 (-s).toNat)
  else
    if s ≥ (N : Int) then (if v < 0 then -1 else 0) else asr v s.toNat

/-- The least `n`, counting up from `n`, for which `p n` holds; `fuel` bounds the search (70_reset_and_hazards.md R326
bounds it by 32 values; entry 15). -/
def leastFrom (p : Nat → Bool) : Nat → Nat → Nat
  | 0, n => n
  | fuel + 1, n => if p n then n else leastFrom p fuel (n + 1)

/-- A bound on every search of the engines (70_reset_and_hazards.md R326; entry 15). -/
def searchFuel : Nat := 40

/-! ### The end of a command -/

/-- The outcome of an operation: a result or an error (30_encoding.md R108). -/
inductive Result where
  | ok (r : Int)
  | err (c : ErrorCode)
deriving DecidableEq, Repr

/-- `raise S()`: the error is reported in state; RES and the operands stay (60_exceptions.md R287). This is the whole of
taking an exception on this hardware, and there is no return from one (60_exceptions.md R289). -/
def raiseError (c : ErrorCode) (s : State) : State := s.setStatus (statusAfterError s.status c)

/-- A command ends with its result in RES (30_encoding.md R108). -/
def writeResult (r : Int) (s : State) : State := (s.setRes (pattern r)).setStatus (statusAfterOk s.status)

/-- The end of a command: exactly one of the two (30_encoding.md R108). -/
def endCommand (o : Result) (s : State) : State :=
  match o with
  | .ok r => writeResult r s
  | .err c => raiseError c s

/-! ### The register window -/

/-- INFO: `F` in bits 7 to 0, the version in bits 15 to 8 (10_state.md R40). -/
def infoWord : Word := BitVec.ofNat 32 (Config.F + 2 ^ 8 * Config.version)

/-- A register's offset in the window (10_state.md R30). -/
def Reg.offset : Reg → Nat
  | .cmd => 0x00
  | .opa => 0x04
  | .opb => 0x08
  | .opc => 0x0C
  | .res => 0x10
  | .status => 0x14
  | .info => 0x18

/-- The register at an offset, if there is one (20_memory.md R61). -/
def regAt (off : Nat) : Option Reg :=
  match off with
  | 0x00 => some .cmd
  | 0x04 => some .opa
  | 0x08 => some .opb
  | 0x0C => some .opc
  | 0x10 => some .res
  | 0x14 => some .status
  | 0x18 => some .info
  | _ => none

/-- "for a write, the register is writable (CMD, OPA, OPB, OPC or STATUS)" (20_memory.md R62). -/
def Reg.writable : Reg → Bool
  | .cmd => true
  | .opa => true
  | .opb => true
  | .opc => true
  | .res => false
  | .status => true
  | .info => false

/-- The register that an access of `n` bytes at `off` reaches, if a read of it is accepted (20_memory.md R62). -/
def readTarget (off n : Nat) : Option Reg := if n = 4 ∧ off % 4 = 0 then regAt off else none

/-- The register that an access of `n` bytes at `off` reaches, if a write of it is accepted (20_memory.md R62). -/
def writeTarget (off n : Nat) : Option Reg := (readTarget off n).filter Reg.writable

/-- What a read of a register returns (20_memory.md R66): the one operation that reads registers for the host. -/
def readReg (r : Reg) (s : State) : Word :=
  match r with
  | .cmd => s.cmd
  | .opa => s.opa
  | .opb => s.opb
  | .opc => s.opc
  | .res => s.res
  | .status => statusView s.status
  | .info => infoWord

/-- What an accepted write does to the register itself (20_memory.md R67). RES and INFO take no write (R65). The command
that a CMD write starts is `runCommand`'s. -/
def writeReg (r : Reg) (v : Word) (s : State) : State :=
  match r with
  | .cmd => s.setCmd v
  | .opa => s.setOpa v
  | .opb => s.setOpb v
  | .opc => s.setOpc v
  | .res => s
  | .status => s.setStatus (statusAfterHostWrite s.status v)
  | .info => s

/-- The host byte address of an offset (20_memory.md R61). -/
def windowAddress (off : Nat) : Nat := Config.base + off

/-- The offset of a host byte address, if the address lies in the window of 32 bytes (20_memory.md R61; entry 3). -/
def windowOffset (a : Nat) : Option Nat :=
  if Config.base ≤ a ∧ a < Config.base + 32 then some (a - Config.base) else none

/-- `MemRead(a, n)` as it arrives at the FXU, if `a` is an address of the window (20_memory.md R62). -/
def memRead (a n : Nat) : Option PortEvent := (windowOffset a).map (PortEvent.read · n)

/-- `MemWrite(a, n, v)` as it arrives at the FXU, if `a` is an address of the window (20_memory.md R62). -/
def memWrite (a n : Nat) (v : Word) : Option PortEvent := (windowOffset a).map (PortEvent.write · n v)

/-- Byte lane `k` (address `BASE + off + k`) carries bits `[8k+7:8k]` (20_memory.md R63). -/
def byteLane (w : Word) (k : Nat) : Byte := w.extractLsb' (8 * k) 8

end Sys2Proof.Machine
end

