-- ==== Sys2Proof/Machine/Constants.lean ====
section
/-! DEFINITION. The read-only tables of canonical raw values at `F = 20` (spec/10_state.md R41, R42; entry 10),
and the values of the build parameters that are the spec's own decisions (spec/00_scope.md R6; entry 9). -/

namespace Sys2Proof.Config

/-- The reciprocal's saturation bound, in raw units (00_scope.md R6, 92_eei_decisions.md D28). -/
def satThreshold : Int := 1

/-- The values this FXU is built with (00_scope.md R6). DESIGN CHOICE, unsafe (entry 9): the seed rule and the remap
are the spec's own decisions (D27, D30), not the reference code's. -/
def build : Build where
  nrSeed := .halfBracket
  dlRemapShift := 2

end Sys2Proof.Config

namespace Sys2Proof.Machine

/-! The named constants of 10_state.md R41. -/

def rawZero : Int := 0
def rawOne : Int := 1048576
def rawHalf : Int := 524288
def rawHpi : Int := 1647099
def rawPi : Int := 3294199
def rawTau : Int := 6588398
def rawE : Int := 2850325

/-- CONSTTAB (10_state.md R41, 42_canonical_ops.md R170). -/
def constTable : ConstName → Int
  | .zero => rawZero
  | .one => rawOne
  | .half => rawHalf
  | .hpi => rawHpi
  | .pi => rawPi
  | .tau => rawTau
  | .e => rawE

/-! The engine coefficients of 10_state.md R42. -/

def rawQuarter : Int := 262144
def rawTwo : Int := 2097152
def rawRc23 : Int := 174763
def rawRc45 : Int := 52429
def rawRc67 : Int := 24966
def rawRc89 : Int := 14564
def rawDla : Int := 3294199
def rawDlb : Int := 1317679
def rawDlc : Int := 1098066
def rawSatmax : Int := 2147483647

end Sys2Proof.Machine
end

