-- ==== Sys2Proof/Machine/Operands.lean ====
section
/-! DEFINITION. Every operand form: the three kinds with their raw value and their count of fractional bits
(spec/30_encoding.md R93 to R95, spec/41_scaled_arith.md R131), and the fixed readings of the other commands
(spec/30_encoding.md R98). -/

namespace Sys2Proof.Machine

/-- "any operand type exposes its raw integer value and its fractional-bit count" (30_encoding.md R93). -/
structure Scaled where
  raw  : Int
  frac : Int
deriving DecidableEq, Repr

/-- `frac(K, Fx)` (30_encoding.md R95). -/
def fracBits (k : OperandKind) : Int :=
  match k with
  | .can => Config.F
  | .exp n => n
  | .int => 0

/-- A canonical operand with its raw value (00_scope.md R12). -/
def canonical (raw : Int) : Scaled := ⟨raw, Config.F⟩

/-- A register's value as an operand of a kind (30_encoding.md R93, 41_scaled_arith.md R131). -/
def scaledOperand (k : OperandKind) (w : Word) : Scaled := ⟨sext w, fracBits k⟩

/-- `l` and `lb`: OPA with kind KA (41_scaled_arith.md R131). -/
def operandA (ka : OperandKind) (s : State) : Scaled := scaledOperand ka s.opa

/-- `r` and `rb`: OPB with kind KB (41_scaled_arith.md R131). -/
def operandB (kb : OperandKind) (s : State) : Scaled := scaledOperand kb s.opb

/-- OPA as a signed 32-bit number, canonical raw or integer as the command takes it (30_encoding.md R98). -/
def signedA (s : State) : Int := sext s.opa

/-- OPB as a signed 32-bit number (30_encoding.md R98). -/
def signedB (s : State) : Int := sext s.opb

/-- OPC as a signed 32-bit number; only CLAMP reads it (10_state.md R34). -/
def signedC (s : State) : Int := sext s.opc

end Sys2Proof.Machine
end

