-- ==== Sys2Proof/Machine/ScaledArith.lean ====
section
/-! DEFINITION. ADD, SUB, MUL and DIV over the scale abstraction (spec/41_scaled_arith.md R130 to R137), and the canonical
functions the engines are written with (spec/00_scope.md R12). -/

namespace Sys2Proof.Machine

open Sys2Proof.Config (F)

/-- An operand aligned to `F` in 32 bits (41_scaled_arith.md R133). -/
def align (x : Scaled) : Int := shift 32 x.raw (x.frac - F)

/-- The sum (41_scaled_arith.md R133). -/
def addScaled (x y : Scaled) : Int := wrap 32 (align x + align y)

/-- The difference (41_scaled_arith.md R134). -/
def subScaled (x y : Scaled) : Int := wrap 32 (align x - align y)

/-- The product, rescaled in 64 bits and narrowed (41_scaled_arith.md R135). -/
def mulScaled (x y : Scaled) : Int :=
  let p := x.raw * y.raw
  let q := shift 64 p (x.frac + y.frac - F)
  wrap 32 q

/-- The quotient for a nonzero divisor, rescaled in 64 bits and narrowed (41_scaled_arith.md R136). -/
def quotScaled (x y : Scaled) : Int :=
  let n := x.raw * pow2 32
  let q := wrap 64 (tdiv n y.raw)
  let t := shift 64 q ((x.frac + 32 - y.frac) - F)
  wrap 32 t

/-- DIV's outcome: the zero test comes first, on the raw value alone (41_scaled_arith.md R136, 60_exceptions.md R282). -/
def divScaled (x y : Scaled) : Result :=
  if y.raw = 0 then .err .divisionByZero else .ok (quotScaled x y)

/-! The canonical functions (00_scope.md R12). -/

def cadd (a b : Int) : Int := addScaled (canonical a) (canonical b)
def csub (a b : Int) : Int := subScaled (canonical a) (canonical b)
def cmul (a b : Int) : Int := mulScaled (canonical a) (canonical b)
def cneg (a : Int) : Int := wrap 32 (-a)

/-- ADD (41_scaled_arith.md R133). -/
def execAdd (ka kb : OperandKind) (s : State) : Host.Outcome State Fault Refusal :=
  .next (endCommand (.ok (addScaled (operandA ka s) (operandB kb s))) s)

/-- SUB (41_scaled_arith.md R134). -/
def execSub (ka kb : OperandKind) (s : State) : Host.Outcome State Fault Refusal :=
  .next (endCommand (.ok (subScaled (operandA ka s) (operandB kb s))) s)

/-- MUL (41_scaled_arith.md R135). -/
def execMul (ka kb : OperandKind) (s : State) : Host.Outcome State Fault Refusal :=
  .next (endCommand (.ok (mulScaled (operandA ka s) (operandB kb s))) s)

/-- DIV (41_scaled_arith.md R136). -/
def execDiv (ka kb : OperandKind) (s : State) : Host.Outcome State Fault Refusal :=
  .next (endCommand (divScaled (operandA ka s) (operandB kb s)) s)

end Sys2Proof.Machine
end

