-- ==== Sys2Proof/Machine/CanonicalOps.lean ====
section
/-! DEFINITION. The canonical-type utilities (spec/42_canonical_ops.md R170 to R178). -/

namespace Sys2Proof.Machine

open Sys2Proof.Config (F)

/-- `from_i32(i)` (42_canonical_ops.md R172). -/
def fromInteger (i : Int) : Int := wrap 32 (i * pow2 F)

/-- `to_i32`: floor (42_canonical_ops.md R174). -/
def toInteger (a : Int) : Int := asr a F

/-- `from_decimal(whole, decimal_points)`: the range test comes before the division (42_canonical_ops.md R173). -/
def fromDecimalResult (w dp : Int) : Result :=
  if dp < 0 ∨ dp > 18 then .err .domainError
  else
    let n := w * pow2 32
    let q := tdiv n ((10 ^ dp.toNat : Nat) : Int)
    .ok (wrap 32 (asr q (32 - F)))

/-- Three-way signed comparison (42_canonical_ops.md R177). -/
def compareRaw (a b : Int) : Int := if a < b then -1 else if a = b then 0 else 1

/-- `clamp_i32(self, min, max)`: the range test, then the lower bound, then the upper, on the wrapped bounds
(42_canonical_ops.md R178). -/
def clampResult (a mn mx : Int) : Result :=
  if mn > mx then .err .invalidRange
  else
    let lo := fromInteger mn
    let hi := fromInteger mx
    if a < lo then .ok lo
    else if a > hi then .ok hi
    else .ok a

/-- CONST (42_canonical_ops.md R170). -/
def execConst (k : ConstName) (s : State) : Host.Outcome State Fault Refusal :=
  .next (endCommand (.ok (constTable k)) s)

/-- FROM_RAW (42_canonical_ops.md R171). -/
def execFromRaw (s : State) : Host.Outcome State Fault Refusal :=
  .next (endCommand (.ok (signedA s)) s)

/-- FROM_I32 (42_canonical_ops.md R172). -/
def execFromI32 (s : State) : Host.Outcome State Fault Refusal :=
  .next (endCommand (.ok (fromInteger (signedA s))) s)

/-- FROM_DECIMAL (42_canonical_ops.md R173). -/
def execFromDecimal (s : State) : Host.Outcome State Fault Refusal :=
  .next (endCommand (fromDecimalResult (signedA s) (signedB s)) s)

/-- TO_I32 (42_canonical_ops.md R174). -/
def execToI32 (s : State) : Host.Outcome State Fault Refusal :=
  .next (endCommand (.ok (toInteger (signedA s))) s)

/-- NEG (42_canonical_ops.md R175). -/
def execNeg (s : State) : Host.Outcome State Fault Refusal :=
  .next (endCommand (.ok (wrap 32 (-(signedA s)))) s)

/-- ABS (42_canonical_ops.md R176). -/
def execAbs (s : State) : Host.Outcome State Fault Refusal :=
  .next (endCommand (.ok (wabs (signedA s))) s)

/-- CMP (42_canonical_ops.md R177). -/
def execCmp (s : State) : Host.Outcome State Fault Refusal :=
  .next (endCommand (.ok (compareRaw (signedA s) (signedB s))) s)

/-- CLAMP (42_canonical_ops.md R178). -/
def execClamp (s : State) : Host.Outcome State Fault Refusal :=
  .next (endCommand (clampResult (signedA s) (signedB s) (signedC s)) s)

end Sys2Proof.Machine
end

