-- ==== Sys2Proof/Machine/Sine.lean ====
section
/-! DEFINITION. The sine polynomial engine (spec/43_sine.md R210 to R214). The order of the products is normative. -/

namespace Sys2Proof.Machine

/-- An angle that a range reduction gives, and whether the result is to be negated. -/
structure Reduced where
  negate : Bool
  angle  : Int
deriving DecidableEq, Repr

/-- The flip and the reflection of a range reduction: above half a turn, continue half a turn lower and negate; at or above
a quarter turn, reflect (43_sine.md R212, R214). -/
def reduceAngle (halfTurn quarterTurn t : Int) : Reduced :=
  let neg := decide (t > halfTurn)
  let t1 := if t > halfTurn then csub t halfTurn else t
  let t2 := if t1 ≥ quarterTurn then csub halfTurn t1 else t1
  ⟨neg, t2⟩

/-- The sign is reapplied to the value of the reduced angle (43_sine.md R212, R214). -/
def applySign (neg : Bool) (v : Int) : Int := if neg then cneg v else v

/-- The 9th-order odd polynomial, each term made from the one before (43_sine.md R212). -/
def sinePolynomial (t : Int) : Int :=
  let t2 := cmul t t
  let t3 := cmul t2 t
  let term3 := cmul t3 rawRc23
  let acc3 := csub t term3
  let term5 := cmul (cmul term3 t2) rawRc45
  let acc5 := cadd acc3 term5
  let term7 := cmul (cmul term5 t2) rawRc67
  let acc7 := csub acc5 term7
  let term9 := cmul (cmul term7 t2) rawRc89
  cadd acc7 term9

/-- `sin(t)`, `t` in canonical radians (43_sine.md R212). -/
def sine (t : Int) : Int :=
  let r := reduceAngle rawPi rawHpi t
  applySign r.negate (sinePolynomial r.angle)

/-- The low-order closed form on a reduced angle in turns: the remap by `DL_REMAP_SHIFT`, then
`(t/2)·(π − t²·(τ/5 − t²·π/3))` (43_sine.md R214). -/
def closedForm (b : Config.Build) (u : Int) : Int :=
  let t := shift 32 u (-(b.dlRemapShift : Int))
  let t2 := cmul t t
  let inner := csub rawDlb (cmul t2 rawDlc)
  let mid := csub rawDla (cmul t2 inner)
  cmul (asr t 1) mid

/-- `sin_dimless(u)`, `u` a fraction of a full turn (43_sine.md R214). -/
def sineDimless (b : Config.Build) (u : Int) : Int :=
  let r := reduceAngle rawHalf rawQuarter u
  applySign r.negate (closedForm b r.angle)

/-- SIN (43_sine.md R212). -/
def execSin (s : State) : Host.Outcome State Fault Refusal :=
  .next (endCommand (.ok (sine (signedA s))) s)

/-- SIN_DIMLESS, as this FXU is built (43_sine.md R214). -/
def execSinDimless (s : State) : Host.Outcome State Fault Refusal :=
  .next (endCommand (.ok (sineDimless Config.build (signedA s))) s)

end Sys2Proof.Machine
end

