-- ==== Sys2Proof/Machine/Reciprocal.lean ====
section
/-! DEFINITION. The reciprocal engine: the dispatcher, the series and Newton-Raphson (spec/44_reciprocal.md R240 to R250). -/

namespace Sys2Proof.Machine

open Sys2Proof.Config (F)

/-- `EXP2CEIL(ip)`: the least `n >= 0` with `2^n >= ip` (44_reciprocal.md R244). -/
def exp2Ceil (ip : Int) : Nat := leastFrom (fun n => decide (pow2 n ≥ ip)) searchFuel 0

/-- The loop of SERIES with `k` terms still allowed: add the term, make the next, stop when the budget is spent or the
next term is below the threshold (44_reciprocal.md R245). -/
def seriesLoop (mb : Int) : Nat → Int → Int → Int
  | 0, acc, _ => acc
  | k + 1, acc, term =>
    let acc' := cadd acc term
    let term' := cmul term mb
    if k = 0 ∨ wabs term' < Config.serTh then acc' else seriesLoop mb k acc' term'

/-- `SERIES(taylor, mb)` (44_reciprocal.md R245). -/
def series (taylor mb : Int) : Int := seriesLoop mb Config.serMax 0 taylor

/-- The loop that the source's text gives literally: double the guess while `2 · m >= g` (44_reciprocal.md R247). -/
def literalSeed (m : Int) : Nat → Int → Int
  | 0, g => g
  | fuel + 1, g => if 2 * m ≥ g then literalSeed m fuel (2 * g) else g

/-- `NR_SEED_VALUE(m)` under each seed rule; only the final seed is narrowed (44_reciprocal.md R247). -/
def seedValue (rule : Config.NrSeed) (m : Int) : Int :=
  match rule with
  | .halfBracket => wrap 32 (rawOne * pow2 (leastFrom (fun k => decide (m * pow2 (k + 1) ≥ rawOne)) searchFuel 0))
  | .literal => wrap 32 (literalSeed m searchFuel rawOne)
  | .above => wrap 32 (rawOne * pow2 (leastFrom (fun k => decide (m * pow2 k ≥ rawOne)) searchFuel 0))

/-- One Newton-Raphson step, the products in the order of the rule (44_reciprocal.md R246). -/
def newtonStep (m g : Int) : Int := cmul g (csub rawTwo (cmul m g))

/-- The loop of NEWTON with `k` steps still allowed; `none` when the budget is spent (44_reciprocal.md R246, R248). -/
def newtonLoop (m : Int) : Nat → Int → Option Int
  | 0, _ => none
  | k + 1, g =>
    let gn := newtonStep m g
    if wabs (wrap 32 (gn - g)) < Config.nrTh then some gn else newtonLoop m k gn

/-- `NEWTON(m)` (44_reciprocal.md R246). -/
def newton (b : Config.Build) (m : Int) : Option Int := newtonLoop m Config.nrMax (seedValue b.nrSeed m)

/-- Case 4: the series about the power of two at or above the integer part of `m` (44_reciprocal.md R240, R244, R245). -/
def inverseSeries (m : Int) : Int :=
  let n := exp2Ceil (asr m F)
  let taylor := shift 32 rawOne n
  let mb := csub rawOne (cmul taylor m)
  series taylor mb

/-- `inverse(x)`: the cases in the order given, the sign of the input reapplied in every one (44_reciprocal.md R240). -/
def inverseResult (b : Config.Build) (x : Int) : Result :=
  let m := wabs x
  let sg := decide (x < 0)
  if x = 0 then .ok 0
  else if m = rawOne then .ok (applySign sg rawOne)
  else if m ≤ Config.satThreshold then .ok (applySign sg rawSatmax)
  else if m > rawOne then .ok (applySign sg (inverseSeries m))
  else
    match newton b m with
    | some g => .ok (applySign sg g)
    | none => .err .convergenceFailure

/-- `inv_i32(d)`: the series on the exact integer magnitude (44_reciprocal.md R250). -/
def invInteger (d : Int) : Int :=
  let m : Int := d.natAbs
  let sg := decide (d < 0)
  if d = 0 then 0
  else if m = 1 then applySign sg rawOne
  else
    let n := exp2Ceil m
    let taylor := shift 32 rawOne n
    let mb := csub rawOne (wrap 32 (taylor * m))
    applySign sg (series taylor mb)

/-- INVERSE, as this FXU is built (44_reciprocal.md R240). -/
def execInverse (s : State) : Host.Outcome State Fault Refusal :=
  .next (endCommand (inverseResult Config.build (signedA s)) s)

/-- INV_I32 (44_reciprocal.md R250). -/
def execInvI32 (s : State) : Host.Outcome State Fault Refusal :=
  .next (endCommand (.ok (invInteger (signedA s))) s)

end Sys2Proof.Machine
end

