-- ==== Sys2Proof/Machine/Dispatch.lean ====
section
/-! DEFINITION. One arm per command: `exec_op` with the end of the command (spec/30_encoding.md R100, R108). CMD is written
before, by the transaction that carries the command. -/

namespace Sys2Proof.Machine

def exec (i : Instr) (s : State) : Host.Outcome State Fault Refusal :=
  match i with
  | .add ka kb => Sys2Proof.Machine.execAdd ka kb s
  | .sub ka kb => Sys2Proof.Machine.execSub ka kb s
  | .mul ka kb => Sys2Proof.Machine.execMul ka kb s
  | .div ka kb => Sys2Proof.Machine.execDiv ka kb s
  | .const k => Sys2Proof.Machine.execConst k s
  | .fromRaw => Sys2Proof.Machine.execFromRaw s
  | .fromI32 => Sys2Proof.Machine.execFromI32 s
  | .fromDecimal => Sys2Proof.Machine.execFromDecimal s
  | .toI32 => Sys2Proof.Machine.execToI32 s
  | .neg => Sys2Proof.Machine.execNeg s
  | .abs => Sys2Proof.Machine.execAbs s
  | .cmp => Sys2Proof.Machine.execCmp s
  | .clamp => Sys2Proof.Machine.execClamp s
  | .sin => Sys2Proof.Machine.execSin s
  | .sinDimless => Sys2Proof.Machine.execSinDimless s
  | .inverse => Sys2Proof.Machine.execInverse s
  | .invI32 => Sys2Proof.Machine.execInvI32 s

end Sys2Proof.Machine
end

