-- ==== Sys2Proof/Machine/Port.lean ====
section
/-! DEFINITION. The target port: what each event that arrives does (spec/20_memory.md R62 to R68, spec/30_encoding.md R108,
spec/70_reset_and_hazards.md R320, R325). -/

namespace Sys2Proof.Machine

/-- A read: the register's value, or ERROR with data 0; no other effect (20_memory.md R62, R66). -/
def serveRead (off n : Nat) (s : State) : State :=
  match readTarget off n with
  | some r => s.setResponse (some (.readOkay (readReg r s)))
  | none => s.setResponse (some (.readError 0#32))

/-- A write of `v` to CMD is accepted: store it, then execute it; an illegal word ends with ILLEGAL_COMMAND
(30_encoding.md R108, 60_exceptions.md R281). -/
def runCommand (v : Word) (s : State) : Host.Outcome State Fault Refusal :=
  match decode v with
  | .ok i => exec i (writeReg .cmd v s)
  | .error _ => .next (raiseError .illegalCommand (writeReg .cmd v s))

/-- A write: refused with ERROR and no effect, or accepted (20_memory.md R62, R67). A CMD write gets its OKAY with the
command complete (R68). -/
def serveWrite (off n : Nat) (v : Word) (s : State) : Host.Outcome State Fault Refusal :=
  match writeTarget off n with
  | some .cmd => runCommand v (s.setResponse (some .writeOkay))
  | some r => .next (writeReg r v (s.setResponse (some .writeOkay)))
  | none => .next (s.setResponse (some .writeError))

/-- Reset: every register takes its reset value; what still waits at the port comes after (70_reset_and_hazards.md R320).
A command in progress is abandoned with no OKAY, so nothing is answered. -/
def deliverReset (s : State) : State := State.reset.setPort s.port

/-- One event takes effect completely (20_memory.md R70). -/
def serve (e : PortEvent) (s : State) : Host.Outcome State Fault Refusal :=
  match e with
  | .read off n => .next (serveRead off n s)
  | .write off n v => serveWrite off n v s
  | .reset => .next (deliverReset s)
  | .resetDuringCommand v => .next (deliverReset (writeReg .cmd v s))
  | .cmdWriteAborted v => runCommand v (s.setResponse (some .leftToPlatform))

/-- The oldest waiting event is served; with none waiting, the FXU "holds its registers unchanged" (20_memory.md R70,
60_exceptions.md R297). -/
def servePort (s : State) : Host.Outcome State Fault Refusal :=
  match s.port with
  | [] => .next s
  | e :: rest => serve e (s.setPort rest)

/-- An event arrives before all that wait. -/
def arriveFirst (e : PortEvent) (s : State) : State := s.setPort (e :: s.port)

/-- The write of a command word to CMD (30_encoding.md R105, `wr CMD`). -/
def commandWrite (v : Word) : PortEvent := .write Reg.cmd.offset 4 v

end Sys2Proof.Machine
end

