-- ==== Sys2Proof/Machine/Step.lean ====
section
/-! DEFINITION. One step: one event at the port (spec/20_memory.md R68, R70); and how a command comes to be the next. -/

namespace Sys2Proof.Machine

/-- One step of the FXU: it serves the oldest event that waits at its port (entries 1 and 4). -/
def step (s : State) : Host.Outcome State Fault Refusal := servePort s

/-- The command of an opcode-table word is the next that the host writes to CMD (entry 11). The FXU fetches nothing
(10_state.md R31): a command comes from the CMD write that carries it (20_memory.md R73). -/
def State.withFetchWord (s : State) (nbits w : Nat) : State := arriveFirst (commandWrite (tableWord nbits w)) s

end Sys2Proof.Machine
end

