-- ==== Sys2Proof/Machine/Notation.lean ====
section
/-! DEFINITION. The notation of commands, pseudo-commands and host lines (spec/30_encoding.md R103 to R105). It is not part of
the FXU; what it stands for is words and transactions. -/

namespace Sys2Proof.Machine

/-- A kind specifier as it is written (30_encoding.md R103). -/
def kindText : OperandKind → String
  | .can => "C"
  | .exp n => "X(" ++ toString n ++ ")"
  | .int => "I"

/-- A constant as it is written (30_encoding.md R103). -/
def constText : ConstName → String
  | .zero => "ZERO"
  | .one => "ONE"
  | .half => "HALF"
  | .hpi => "HPI"
  | .pi => "PI"
  | .tau => "TAU"
  | .e => "E"

/-- The operands of a command as they are written after its mnemonic (30_encoding.md R103). -/
def operandText (i : Instr) : String :=
  match i with
  | .add ka kb => " " ++ kindText ka ++ ", " ++ kindText kb
  | .sub ka kb => " " ++ kindText ka ++ ", " ++ kindText kb
  | .mul ka kb => " " ++ kindText ka ++ ", " ++ kindText kb
  | .div ka kb => " " ++ kindText ka ++ ", " ++ kindText kb
  | .const k => " " ++ constText k
  | .fromRaw => ""
  | .fromI32 => ""
  | .fromDecimal => ""
  | .toI32 => ""
  | .neg => ""
  | .abs => ""
  | .cmp => ""
  | .clamp => ""
  | .sin => ""
  | .sinDimless => ""
  | .inverse => ""
  | .invI32 => ""

/-- A command as it is written (30_encoding.md R103). -/
def commandText (i : Instr) : String := i.row.mnemonic ++ operandText i

/-- The four commands that take kind specifiers (30_encoding.md R103). -/
inductive ArithOp where
  | add
  | sub
  | mul
  | div
deriving DecidableEq, Repr

/-- The command of a two-operand mnemonic with its specifiers. -/
def arithCommand (op : ArithOp) (ka kb : OperandKind) : Instr :=
  match op with
  | .add => .add ka kb
  | .sub => .sub ka kb
  | .mul => .mul ka kb
  | .div => .div ka kb

/-- The pseudo-commands (30_encoding.md R104). -/
inductive Pseudo where
  | addi
  | subi
  | muli
  | divi
  | recip
deriving DecidableEq, Repr

/-- The expansion of a pseudo-command (30_encoding.md R104). -/
def pseudoCommand (p : Pseudo) : Instr :=
  match p with
  | .addi => .add .can .int
  | .subi => .sub .can .int
  | .muli => .mul .can .int
  | .divi => .div .can .int
  | .recip => .inverse

/-- A line of source: a command, a two-operand mnemonic without specifiers, or a pseudo-command. -/
inductive SourceLine where
  | command (i : Instr)
  | bare (op : ArithOp)
  | pseudo (p : Pseudo)
deriving DecidableEq, Repr

/-- The command of a line: "both default to `C`" (30_encoding.md R103; entry 16). -/
def lineCommand (l : SourceLine) : Instr :=
  match l with
  | .command i => i
  | .bare op => arithCommand op .can .can
  | .pseudo p => pseudoCommand p

/-- "Each assembles to exactly one command word" (30_encoding.md R104). -/
def assemble (l : SourceLine) : Word := encode (lineCommand l)

/-- A line of a host program that is a bus transaction or stands for two (30_encoding.md R105). `mov` takes the register
it writes. -/
inductive HostLine where
  | wr (r : Reg) (v : Word)
  | exec (l : SourceLine)
  | rd (r : Reg)
  | mov (r : Reg)
deriving DecidableEq, Repr

/-- The host issues one transaction and the FXU answers it (20_memory.md R70). -/
def issue (e : PortEvent) (s : State) : Host.Outcome State Fault Refusal := step (arriveFirst e s)

/-- The second half of `mov OPx, RES`: `wr OPx, t` with the data of the read (30_encoding.md R105). -/
def writeBack (r : Reg) (s : State) : Host.Outcome State Fault Refusal :=
  match s.response with
  | some (.readOkay d) => issue (.write r.offset 4 d) s
  | _ => .next s

/-- What a host line does (30_encoding.md R105). The host's variables and its control flow are its own. -/
def runLine (l : HostLine) (s : State) : Host.Outcome State Fault Refusal :=
  match l with
  | .wr r v => issue (.write r.offset 4 v) s
  | .exec c => issue (commandWrite (assemble c)) s
  | .rd r => issue (.read r.offset 4) s
  | .mov r =>
    match issue (.read Reg.res.offset 4) s with
    | .next t => writeBack r t
    | .fault f => .fault f
    | .refused q => .refused q

end Sys2Proof.Machine
end

