-- ==== Sys2Proof/Safety.lean ====
section
/-! DEFINITION. What counts as a legal state, and the terms in which statements speak: the legality test in the spec's own
words, exact arithmetic that a result is compared with, and a fixed-width datapath beside the integer pseudocode. -/

namespace Sys2Proof.Safety

open Sys2Proof.Machine

/-! ### Legal states -/

/-- STATUS is as 10_state.md R37 lets it be: CODE takes only the values 0 to 5, and every bit but CODE and ERRS is 0. -/
def StatusLegal (st : Word) : Prop := (statusCode st).toNat ≤ 5 ∧ st &&& 0xFFFFFEF0#32 = 0#32

/-- The invariant of the machine. -/
def StateLegal (s : State) : Prop := StatusLegal s.status

/-- The next state when an operation ends OK with the pattern `r`: RES takes `r`, STATUS.CODE becomes 0, nothing else
changes (30_encoding.md R108). -/
def endsOk (r : Word) (s : State) : State := { s with res := r, status := statusAfterOk s.status }

/-- The next state when an operation ends with an error: CODE and ERRS, nothing else (60_exceptions.md R287). -/
def endsWith (c : ErrorCode) (s : State) : State := { s with status := statusAfterError s.status c }

/-- The error codes that a command can end with (60_exceptions.md R288); 0 is OK. -/
def possibleCodes : Instr → List (BitVec 4)
  | .div _ _ => [0#4, 1#4]
  | .clamp => [0#4, 2#4]
  | .inverse => [0#4, 3#4]
  | .fromDecimal => [0#4, 5#4]
  | .add _ _ => [0#4]
  | .sub _ _ => [0#4]
  | .mul _ _ => [0#4]
  | .const _ => [0#4]
  | .fromRaw => [0#4]
  | .fromI32 => [0#4]
  | .toI32 => [0#4]
  | .neg => [0#4]
  | .abs => [0#4]
  | .cmp => [0#4]
  | .sin => [0#4]
  | .sinDimless => [0#4]
  | .invI32 => [0#4]

/-- What the seven offsets of the window read as (10_state.md R30, R37, R40). -/
def windowContents (s : State) : List (Nat × Word) :=
  [(0x00, s.cmd), (0x04, s.opa), (0x08, s.opb), (0x0C, s.opc), (0x10, s.res), (0x14, s.status &&& 0x0000010F#32),
    (0x18, 0x00000114#32)]

/-- The conditions of 20_memory.md R62 on an access of `n` bytes at `off`, but for writability. -/
def Accepted (off n : Nat) : Prop :=
  n = 4 ∧ off % 4 = 0 ∧ off ∈ [0x00, 0x04, 0x08, 0x0C, 0x10, 0x14, 0x18]

/-! ### Legality, as 30_encoding.md R99 words it -/

def isArith (v : Word) : Prop := opField v = 0x01#5 ∨ opField v = 0x02#5 ∨ opField v = 0x03#5 ∨ opField v = 0x04#5

/-- The opcodes that are neither of the four above nor CONST. -/
def isPlain (v : Word) : Prop :=
  opField v ∈ [0x09#5, 0x0A#5, 0x0B#5, 0x0C#5, 0x0D#5, 0x0E#5, 0x0F#5, 0x10#5, 0x14#5, 0x15#5, 0x18#5, 0x19#5]

/-- 30_encoding.md R99, items 1 to 5. -/
def Legal (v : Word) : Prop :=
  rsvField v = 0#3 ∧
  (isArith v ∨ opField v = 0x08#5 ∨ isPlain v) ∧
  (isArith v →
    kaField v ≠ 0b11#2 ∧ kbField v ≠ 0b11#2 ∧
    (kaField v ≠ 0b01#2 → faField v = 0#8) ∧ (kbField v ≠ 0b01#2 → fbField v = 0#8) ∧ kselField v = 0#4) ∧
  (opField v = 0x08#5 →
    (kselField v).toNat ≤ 6 ∧ kaField v = 0#2 ∧ kbField v = 0#2 ∧ faField v = 0#8 ∧ fbField v = 0#8) ∧
  (isPlain v → upperField v = 0#24)

/-! ### Exact arithmetic -/

/-- `v` scaled by `2^(-s)` with no width at all: a product for negative `s`, a floor otherwise. -/
def rescale (v s : Int) : Int := if s < 0 then v * 2 ^ (-s).toNat else v / 2 ^ s.toNat

/-- The round-half-away-from-zero quotient of a nonnegative number by a positive one (10_state.md R41). -/
def roundQuotient (a b : Nat) : Nat := (2 * a + b) / (2 * b)

/-! ### A fixed-width datapath for the canonical kind at `F = 20` -/

/-- The product of two canonical patterns: 64 bits, shifted right by 20, low 32 bits. -/
def busMul (a b : Word) : Word := ((a.signExtend 64 * b.signExtend 64).sshiftRight 20).setWidth 32

/-- The reduction of an angle pattern. -/
def busReduce (halfTurn quarterTurn t : Word) : Bool × Word :=
  let neg := halfTurn.slt t
  let t1 := if halfTurn.slt t then t - halfTurn else t
  (neg, if quarterTurn.sle t1 then halfTurn - t1 else t1)

/-- The sine polynomial on patterns. -/
def busSinePolynomial (t : Word) : Word :=
  let t2 := busMul t t
  let term3 := busMul (busMul t2 t) 0x0002AAAB#32
  let term5 := busMul (busMul term3 t2) 0x0000CCCD#32
  let term7 := busMul (busMul term5 t2) 0x00006186#32
  let term9 := busMul (busMul term7 t2) 0x000038E4#32
  t - term3 + term5 - term7 + term9

/-- SIN on patterns. -/
def busSine (t : Word) : Word :=
  let r := busReduce 0x003243F7#32 0x001921FB#32 t
  if r.1 then -(busSinePolynomial r.2) else busSinePolynomial r.2

/-- SIN_DIMLESS on patterns, with the remap by 4. -/
def busSineDimless (u : Word) : Word :=
  let r := busReduce 0x00080000#32 0x00040000#32 u
  let t := r.2 <<< 2
  let t2 := busMul t t
  let mid := 0x003243F7#32 - busMul t2 (0x00141B2F#32 - busMul t2 0x0010C152#32)
  let v := busMul (t.sshiftRight 1) mid
  if r.1 then -v else v

/-! ### The loops of the reciprocal engine, without the loops -/

/-- The `k`-th term of the series, term 0 being `taylor` (44_reciprocal.md R245). -/
def seriesTerm (taylor mb : Int) : Nat → Int
  | 0 => taylor
  | k + 1 => cmul (seriesTerm taylor mb k) mb

/-- The exact sum of the first `n` terms. -/
def seriesSum (taylor mb : Int) : Nat → Int
  | 0 => 0
  | n + 1 => seriesSum taylor mb n + seriesTerm taylor mb n

/-- The `k`-th Newton-Raphson iterate, iterate 0 being the seed (44_reciprocal.md R246). -/
def newtonIterate (m seed : Int) : Nat → Int
  | 0 => seed
  | k + 1 => newtonStep m (newtonIterate m seed k)

/-- Iterates `k` and `k + 1` are within the threshold (44_reciprocal.md R246). -/
def newtonMeets (m seed : Int) (k : Nat) : Prop :=
  wabs (wrap 32 (newtonIterate m seed (k + 1) - newtonIterate m seed k)) < 100

end Sys2Proof.Safety
end

