-- ==== Sys2Proof/Certificates/Slice0/Obligations.lean ====
section
/-! DEFINITION. The statements for the provers. Each docstring names the rule of spec/ that it formalises. Where a statement
speaks of `port` or `response` it speaks of the model's own fields (entries 1 and 2). -/

open Sys2Proof
open Sys2Proof.Machine
open Sys2Proof.Safety

/-! ### Encoding -/

/-- Words written out from 30_encoding.md section 6 and the opcode map decode to the commands they stand for, and two reserved
words are rejected. That the last two are no commands is the spec's (30_encoding.md section 4); the names of their rejections,
`reservedOpcode` and `modulo`, are the model's own choice (entry 13). -/
def Obligations.WrittenOutWordsDecode : Prop :=
  decode 0x00000001#32 = .ok (.add .can .can) ∧
  decode 0x00000803#32 = .ok (.mul .can .int) ∧
  decode 0x10000401#32 = .ok (.add .can (.exp 16)) ∧
  decode 0x00FC0104#32 = .ok (.div (.exp (-4)) .can) ∧
  decode 0x00004008#32 = .ok (.const .pi) ∧
  decode 0x00000010#32 = .ok .clamp ∧
  decode 0x00000014#32 = .ok .sin ∧
  decode 0x00000019#32 = .ok .invI32 ∧
  decode 0x00000000#32 = .error .reservedOpcode ∧
  decode 0x00000005#32 = .error .modulo

/-- Decoding the word of a well-formed command gives the command back, whatever its operands. -/
def Obligations.DecodeOfEncodeIsTheCommand : Prop :=
  ∀ i : Instr, i.WellFormed → decode (encode i) = .ok i

/-- A word that decodes is the word of a well-formed command: no bit of it is dropped. -/
def Obligations.EncodeOfDecodeIsTheWord : Prop :=
  ∀ (w : Word) (i : Instr), decode w = .ok i → i.WellFormed ∧ encode i = w

/-- 30_encoding.md R99 and 60_exceptions.md R281: exactly the words that meet items 1 to 5 are commands; any other one ends
with ILLEGAL_COMMAND (code 4) with no effect beyond STATUS, and CMD keeps it. -/
def Obligations.LegalWordsAndIllegalCommand : Prop :=
  ∀ v : Word,
    ((∃ i, decode v = .ok i) ↔ Legal v) ∧
    (¬ Legal v → ∀ s : State,
      step (arriveFirst (commandWrite v) s) =
        .next { s with cmd := v, status := statusAfterError s.status .illegalCommand, response := some .writeOkay } ∧
      statusCode (statusAfterError s.status .illegalCommand) = 4#4)

/-- 41_scaled_arith.md R142: a command with OP 0x05 is illegal, reads no operand and leaves RES. -/
def Obligations.ModuloIsReserved : Prop :=
  ∀ (v : Word) (s : State), opField v = 0x05#5 →
    step (arriveFirst (commandWrite v) s) =
      .next { s with cmd := v, status := statusAfterError s.status .illegalCommand, response := some .writeOkay }

/-- A word that decodes lies under its command's row of the opcode table and under no other row. -/
def Obligations.DecodedWordLiesUnderItsRowOnly : Prop :=
  ∀ (w : Word) (i : Instr), decode w = .ok i →
    i.row ∈ opcodeTable ∧ i.row.covers w = true ∧ ∀ r ∈ opcodeTable, r.covers w = true → r = i.row

/-- 30_encoding.md R104: the pseudo-commands assemble to these words. -/
def Obligations.PseudoCommandWords : Prop :=
  assemble (.pseudo .addi) = 0x00000801#32 ∧ assemble (.pseudo .subi) = 0x00000802#32 ∧
  assemble (.pseudo .muli) = 0x00000803#32 ∧ assemble (.pseudo .divi) = 0x00000804#32 ∧
  assemble (.pseudo .recip) = 0x00000018#32 ∧
  pseudoCommand .addi = .add .can .int ∧ pseudoCommand .subi = .sub .can .int ∧
  pseudoCommand .muli = .mul .can .int ∧ pseudoCommand .divi = .div .can .int ∧ pseudoCommand .recip = .inverse

/-! ### The step and the port -/

/-- The next CMD write whose word decodes is `exec` of the command, with CMD holding the word, the event taken off the port
and the write answered (30_encoding.md section 5, 20_memory.md section 3). The second clause says the same of a word placed by
`withFetchWord`: that delivery, and that `tableWord` drops the bits from `nbits` up, is the model's own choice (entry 11) and
no rule of the spec. The port and the answer are the model's own fields (entries 1 and 2). -/
def Obligations.StepRunsTheDecodedCommand : Prop :=
  (∀ (s : State) (rest : List PortEvent) (v : Word) (i : Instr), s.port = commandWrite v :: rest → decode v = .ok i →
    step s = exec i { s with cmd := v, port := rest, response := some .writeOkay }) ∧
  (∀ (s : State) (nbits w : Nat) (i : Instr), decodeTableWord nbits w = some i →
    step (s.withFetchWord nbits w) = exec i { s with cmd := tableWord nbits w, response := some .writeOkay })

/-- Nothing stops the FXU: every step of every state has a next state ("There is no `stuck` case", 93). -/
def Obligations.EveryStepHasANextState : Prop := ∀ s : State, ∃ t, step s = .next t

/-- With nothing at the port, the registers are held (60_exceptions.md section 3; the idle step is entry 6). -/
def Obligations.IdleStepChangesNothing : Prop := ∀ s : State, s.port = [] → step s = .next s

/-- 20_memory.md R62: what is accepted, and that any other transaction gets ERROR with no effect, a read the data 0. -/
def Obligations.AcceptedAndRefusedTransactions : Prop :=
  ∀ (s : State) (off n : Nat) (v : Word),
    (Accepted off n → ∃ d, step (arriveFirst (.read off n) s) = .next { s with response := some (.readOkay d) }) ∧
    (¬ Accepted off n → step (arriveFirst (.read off n) s) = .next { s with response := some (.readError 0#32) }) ∧
    (Accepted off n ∧ off ≠ 0x10 ∧ off ≠ 0x18 →
      ∃ t, step (arriveFirst (.write off n v) s) = .next t ∧ t.response = some .writeOkay) ∧
    (¬ (Accepted off n ∧ off ≠ 0x10 ∧ off ≠ 0x18) →
      step (arriveFirst (.write off n v) s) = .next { s with response := some .writeError })

/-- 20_memory.md R65: a write to RES or INFO, and any access to offset 0x1C, gets ERROR and has no effect. -/
def Obligations.ReadOnlyRegistersAndHoleRefuse : Prop :=
  ∀ (s : State) (n : Nat) (v : Word),
    step (arriveFirst (.write 0x10 n v) s) = .next { s with response := some .writeError } ∧
    step (arriveFirst (.write 0x18 n v) s) = .next { s with response := some .writeError } ∧
    step (arriveFirst (.write 0x1C n v) s) = .next { s with response := some .writeError } ∧
    step (arriveFirst (.read 0x1C n) s) = .next { s with response := some (.readError 0#32) }

/-- Reads at every offset and width: the register's value or ERROR, and nothing but the answer changes (20_memory.md
section 3, 10_state.md section 1). -/
def Obligations.ReadsReturnValuesAndChangeNothing : Prop :=
  ∀ (s : State) (off n : Nat),
    step (arriveFirst (.read off n) s) = .next { s with response := some (
      match (windowContents s).lookup off with
      | some w => if n = 4 then .readOkay w else .readError 0#32
      | none => .readError 0#32) }

/-- Writes of the operand registers store all 32 bits and do nothing else (20_memory.md section 3). -/
def Obligations.OperandWritesStoreTheWord : Prop :=
  ∀ (s : State) (v : Word),
    step (arriveFirst (.write 0x04 4 v) s) = .next { s with opa := v, response := some .writeOkay } ∧
    step (arriveFirst (.write 0x08 4 v) s) = .next { s with opb := v, response := some .writeOkay } ∧
    step (arriveFirst (.write 0x0C 4 v) s) = .next { s with opc := v, response := some .writeOkay }

/-- A write of STATUS clears ERRS when bit 8 is 1 and changes no other bit and no other register (20_memory.md section 3,
10_state.md section 3). -/
def Obligations.StatusWriteClearsErrsOnly : Prop :=
  ∀ (s : State) (v : Word), ∃ st,
    step (arriveFirst (.write 0x14 4 v) s) = .next { s with status := st, response := some .writeOkay } ∧
    statusErrs st = (statusErrs s.status && !v.getLsbD 8) ∧
    ∀ k, k ≠ 8 → st.getLsbD k = s.status.getLsbD k

/-- A read after a write of CMD, OPA, OPB or OPC returns what was written; CMD does so whether or not the word is legal
(10_state.md section 2, 20_memory.md section 4). -/
def Obligations.ReadAfterWriteReturnsTheWord : Prop :=
  ∀ (s : State) (rest : List PortEvent) (off : Nat) (v : Word), off ∈ [0x00, 0x04, 0x08, 0x0C] →
    s.port = .write off 4 v :: .read off 4 :: rest →
    ∃ t u, step s = .next t ∧ step t = .next u ∧ u.response = some (.readOkay v)

/-- 10_state.md R40: INFO reads as the constant 0x00000114 in every state, with `F` and the version in its fields, and a
write of it is refused. -/
def Obligations.InfoIsConstant : Prop :=
  (∀ s : State, step (arriveFirst (.read 0x18 4) s) = .next { s with response := some (.readOkay 0x00000114#32) }) ∧
  (0x00000114#32).extractLsb' 0 8 = 20#8 ∧ (0x00000114#32).extractLsb' 8 8 = 1#8 ∧
  (0x00000114#32).extractLsb' 16 16 = 0#16 ∧
  (∀ (s : State) (v : Word), step (arriveFirst (.write 0x18 4 v) s) = .next { s with response := some .writeError })

/-- STATUS as it is read: CODE, ERRS, and 0 in every other bit, in every state; under the invariant it is the register
itself (10_state.md section 3). -/
def Obligations.StatusReadsReservedBitsAsZero : Prop :=
  ∀ s : State, ∃ d, step (arriveFirst (.read 0x14 4) s) = .next { s with response := some (.readOkay d) } ∧
    statusCode d = statusCode s.status ∧ statusErrs d = statusErrs s.status ∧
    (∀ k, 4 ≤ k → k ≠ 8 → d.getLsbD k = false) ∧ (StateLegal s → d = s.status)

/-- The lanes of a word are its bytes, lane 0 lowest, and the decoder on lanes is the decoder on the word (20_memory.md
section 2). -/
def Obligations.ByteLanesAreLittleEndian : Prop :=
  ∀ w : Word,
    wordOfLanes (byteLane w 0) (byteLane w 1) (byteLane w 2) (byteLane w 3) = w ∧
    decodeBytes [byteLane w 0, byteLane w 1, byteLane w 2, byteLane w 3] = decode w ∧
    ∀ k i, k < 4 → i < 8 → (byteLane w k).getLsbD i = w.getLsbD (8 * k + i)

/-- `BASE` is a multiple of 32; an address of the window is `BASE` plus its offset, as aligned as the offset; an address
outside does not reach the FXU (20_memory.md section 1; the model's choice of offsets is entry 3). -/
def Obligations.WindowAddressesAreOffsets : Prop :=
  Config.base % 32 = 0 ∧
  (∀ off, off < 32 → windowOffset (windowAddress off) = some off) ∧
  (∀ off, windowAddress off % 4 = off % 4) ∧
  (∀ a, a < Config.base ∨ Config.base + 32 ≤ a → windowOffset a = none) ∧
  (∀ off n v, off < 32 → memRead (windowAddress off) n = some (.read off n) ∧
    memWrite (windowAddress off) n v = some (.write off n v))

/-- `mov OPx, RES` reads RES and writes it to the operand register (30_encoding.md section 6). -/
def Obligations.MovCopiesRes : Prop :=
  ∀ s : State,
    runLine (.mov .opa) s = .next { s with opa := s.res, response := some .writeOkay } ∧
    runLine (.mov .opb) s = .next { s with opb := s.res, response := some .writeOkay } ∧
    runLine (.mov .opc) s = .next { s with opc := s.res, response := some .writeOkay }

/-! ### Reset -/

/-- Reset leaves every register 0 (INFO its constant), a command in progress is abandoned with no OKAY, and what still waits
at the port comes after (70_reset_and_hazards.md section 1; the port and the answer are the model's own, entries 1 and 2). -/
def Obligations.ResetClearsEveryRegister : Prop :=
  (State.reset.cmd = 0#32 ∧ State.reset.opa = 0#32 ∧ State.reset.opb = 0#32 ∧ State.reset.opc = 0#32 ∧
    State.reset.res = 0#32 ∧ State.reset.status = 0#32 ∧ readReg .info State.reset = 0x00000114#32) ∧
  ∀ (s : State) (v : Word),
    step (arriveFirst .reset s) = .next { State.reset with port := s.port } ∧
    step (arriveFirst (.resetDuringCommand v) s) = .next { State.reset with port := s.port } ∧
    State.reset.response = none

/-- A CMD write that the platform aborts still completes in the FXU: the same registers as the same write that is not
aborted (70_reset_and_hazards.md section 4). -/
def Obligations.AbortedCommandWriteStillCompletes : Prop :=
  ∀ (s : State) (v : Word), ∃ t,
    step (arriveFirst (commandWrite v) s) = .next t ∧
    step (arriveFirst (.cmdWriteAborted v) s) = .next { t with response := some .leftToPlatform }

/-- The invariant holds right after reset. -/
def Obligations.ResetStatusIsLegal : Prop := StateLegal State.reset

/-! ### STATUS and the frame of a command -/

/-- Every step keeps STATUS legal: CODE stays 0 to 5 and every reserved bit stays 0 (10_state.md section 3). -/
def Obligations.EveryStepKeepsStatusLegal : Prop :=
  ∀ s t : State, StateLegal s → step s = .next t → StateLegal t

/-- 10_state.md R39: a command sets ERRS when its CODE is not 0 and never clears it; only reset and a host write of STATUS
with bit 8 set clear it, and a host write with bit 8 clear leaves it. -/
def Obligations.ErrsIsSticky : Prop :=
  ∀ (s t : State) (e : PortEvent) (rest : List PortEvent), s.port = e :: rest → step s = .next t →
    ((∃ v, e = commandWrite v ∨ e = .cmdWriteAborted v) →
      statusErrs t.status = (statusErrs s.status || decide (statusCode t.status ≠ 0#4))) ∧
    (statusErrs s.status = true → statusErrs t.status = false →
      e = .reset ∨ (∃ v, e = .resetDuringCommand v) ∨ ∃ v, e = .write 0x14 4 v ∧ v.getLsbD 8 = true) ∧
    (e = .reset → statusErrs t.status = false) ∧
    (∀ v, e = .resetDuringCommand v → statusErrs t.status = false) ∧
    (∀ v, e = .write 0x14 4 v → statusErrs t.status = (statusErrs s.status && !v.getLsbD 8))

/-- The frame of every command: CMD, the operands, the port and the answer stay; STATUS changes in CODE and ERRS only; RES
stays when the command ends with an error (30_encoding.md section 5, 60_exceptions.md section 2). -/
def Obligations.CommandsChangeOnlyResAndStatus : Prop :=
  ∀ (i : Instr) (s t : State), exec i s = .next t →
    t.cmd = s.cmd ∧ t.opa = s.opa ∧ t.opb = s.opb ∧ t.opc = s.opc ∧ t.port = s.port ∧ t.response = s.response ∧
    (∀ k, 4 ≤ k → k ≠ 8 → t.status.getLsbD k = s.status.getLsbD k) ∧
    (statusCode t.status ≠ 0#4 → t.res = s.res ∧ statusErrs t.status = true) ∧
    (statusCode t.status = 0#4 → statusErrs t.status = statusErrs s.status)

/-- A legal command reports at most its own error: DIV only DIVISION_BY_ZERO, CLAMP only INVALID_RANGE, INVERSE only
CONVERGENCE_FAILURE, FROM_DECIMAL only DOMAIN_ERROR, the others none (60_exceptions.md section 2). -/
def Obligations.EachCommandRaisesItsOwnErrorOnly : Prop :=
  ∀ (i : Instr) (s t : State), exec i s = .next t → statusCode t.status ∈ possibleCodes i

/-- A command is a function of its word and its operands: neither the old RES nor the old STATUS, nor anything else, reaches
its outcome (00_scope.md section 4). -/
def Obligations.CommandsArePure : Prop :=
  ∀ (i : Instr) (s s' t t' : State), s.opa = s'.opa → s.opb = s'.opb → s.opc = s'.opc →
    exec i s = .next t → exec i s' = .next t' →
    statusCode t.status = statusCode t'.status ∧ (statusCode t.status = 0#4 → t.res = t'.res)

/-- Writing the same command word twice gives the same code and the same RES (20_memory.md section 3, 41_scaled_arith.md
section 3). -/
def Obligations.RepeatedCommandRepeatsItsResult : Prop :=
  ∀ (s t u : State) (rest : List PortEvent) (v : Word), s.port = commandWrite v :: commandWrite v :: rest →
    step s = .next t → step t = .next u →
    u.res = t.res ∧ statusCode u.status = statusCode t.status ∧ u.cmd = v

/-- Only a CMD write or reset changes RES: every other event, and idling, leaves it (10_state.md section 2). -/
def Obligations.OnlyCommandsAndResetChangeRes : Prop :=
  ∀ s t : State, step s = .next t → t.res ≠ s.res →
    ∃ e rest, s.port = e :: rest ∧
      ((∃ v, (e = commandWrite v ∨ e = .cmdWriteAborted v) ∧ statusCode t.status = 0#4) ∨
        e = .reset ∨ ∃ v, e = .resetDuringCommand v)

/-! ### Scale-generic arithmetic -/

/-- 41_scaled_arith.md R130: the directional shift of a value that fits; by `N` or more, the limit. -/
def Obligations.DirectionalShift : Prop :=
  ∀ (N : Nat) (v s : Int), 1 ≤ N → -(2 : Int) ^ (N - 1) ≤ v → v < (2 : Int) ^ (N - 1) →
    (s < 0 → shift N v s = Int.bmod (v * 2 ^ (-s).toNat) (2 ^ N)) ∧
    (s < 0 → -s ≥ N → shift N v s = 0) ∧
    (0 ≤ s → shift N v s = v / 2 ^ s.toNat) ∧
    (0 ≤ s → s ≥ N → shift N v s = if v < 0 then -1 else 0) ∧
    -(2 : Int) ^ (N - 1) ≤ shift N v s ∧ shift N v s < (2 : Int) ^ (N - 1)

/-- ADD, every pairing of kinds: RES takes the exact sum of the operands rescaled to 20 fractional bits (floored to the
right, unbounded to the left), modulo 2^32; status OK; nothing else changes (41_scaled_arith.md section 2). -/
def Obligations.AddIsTheSumOfRescaledOperands : Prop :=
  ∀ (ka kb : OperandKind) (s : State),
    exec (.add ka kb) s = .next (endsOk (BitVec.ofInt 32
      (rescale s.opa.toInt (fracBits ka - 20) + rescale s.opb.toInt (fracBits kb - 20))) s)

/-- SUB likewise, the difference (41_scaled_arith.md section 2). -/
def Obligations.SubIsTheDifferenceOfRescaledOperands : Prop :=
  ∀ (ka kb : OperandKind) (s : State),
    exec (.sub ka kb) s = .next (endsOk (BitVec.ofInt 32
      (rescale s.opa.toInt (fracBits ka - 20) - rescale s.opb.toInt (fracBits kb - 20))) s)

/-- MUL, every pairing of kinds: RES takes the exact product rescaled by `lb + rb - 20`, modulo 2^32; status OK; nothing else
changes (41_scaled_arith.md section 2). -/
def Obligations.MulIsTheRescaledProduct : Prop :=
  ∀ (ka kb : OperandKind) (s : State),
    exec (.mul ka kb) s = .next (endsOk (BitVec.ofInt 32
      (rescale (s.opa.toInt * s.opb.toInt) (fracBits ka + fracBits kb - 20))) s)

/-- DIV by a nonzero raw divisor, every pairing of kinds: the quotient of `l · 2^32` rounded toward zero, wrapped to 64 bits,
rescaled by `lb + 32 - rb - 20`, modulo 2^32; status OK; nothing else changes (41_scaled_arith.md section 2). -/
def Obligations.DivIsTheRescaledQuotient : Prop :=
  ∀ (ka kb : OperandKind) (s : State), s.opb ≠ 0#32 →
    exec (.div ka kb) s = .next (endsOk (BitVec.ofInt 32
      (rescale (Int.bmod (Int.tdiv (s.opa.toInt * 2 ^ 32) s.opb.toInt) (2 ^ 64))
        (fracBits ka + 32 - fracBits kb - 20))) s)

/-- 60_exceptions.md R282: DIV by a raw 0 ends with code 1 for every kind and dividend, no other command does, and the
reciprocals of 0 are 0 with status OK. -/
def Obligations.DivisionByZeroExactly : Prop :=
  (∀ (ka kb : OperandKind) (s : State), s.opb = 0#32 →
    exec (.div ka kb) s = .next (endsWith .divisionByZero s) ∧ statusCode (endsWith .divisionByZero s).status = 1#4) ∧
  (∀ (i : Instr) (s t : State), exec i s = .next t → statusCode t.status = 1#4 →
    ∃ ka kb, i = .div ka kb ∧ s.opb = 0#32) ∧
  (∀ s : State, s.opa = 0#32 → exec .inverse s = .next (endsOk 0#32 s) ∧ exec .invI32 s = .next (endsOk 0#32 s))

/-- Adding an explicit-scale operand is adding it rescaled by hand, bit for bit (41_scaled_arith.md section 3, which derives
it). -/
def Obligations.CrossScaleAddIsManualRescaling : Prop :=
  ∀ (eb : Int) (s : State), ∃ t t',
    exec (.add .can (.exp eb)) s = .next t ∧
    exec (.add .can .can) { s with opb := BitVec.ofInt 32 (shift 32 s.opb.toInt (eb - 20)) } = .next t' ∧
    t.res = t'.res

/-- The round trip of integers, the laws of ZERO, NEG and ONE (42_canonical_ops.md, which derives them). -/
def Obligations.CanonicalLaws : Prop :=
  (∀ s : State, -2048 ≤ s.opa.toInt → s.opa.toInt ≤ 2047 → ∃ t u,
    exec .fromI32 s = .next t ∧ exec .toI32 { t with opa := t.res } = .next u ∧ u.res = s.opa) ∧
  (∀ s : State, s.opb = 0#32 → exec (.add .can .can) s = .next (endsOk s.opa s)) ∧
  (∀ s : State, ∃ t u,
    exec .neg s = .next t ∧ exec (.add .can .can) { t with opb := t.res } = .next u ∧ u.res = 0#32) ∧
  (∀ s : State, s.opb = 0x00100000#32 → exec (.mul .can .can) s = .next (endsOk s.opa s))

/-! ### Canonical utilities -/

/-- CONST: the seven words, status OK, nothing else changes (42_canonical_ops.md, 10_state.md section 4). -/
def Obligations.ConstLoadsTheNamedWord : Prop :=
  ∀ s : State,
    exec (.const .zero) s = .next (endsOk 0x00000000#32 s) ∧ exec (.const .one) s = .next (endsOk 0x00100000#32 s) ∧
    exec (.const .half) s = .next (endsOk 0x00080000#32 s) ∧ exec (.const .hpi) s = .next (endsOk 0x001921FB#32 s) ∧
    exec (.const .pi) s = .next (endsOk 0x003243F7#32 s) ∧ exec (.const .tau) s = .next (endsOk 0x006487EE#32 s) ∧
    exec (.const .e) s = .next (endsOk 0x002B7E15#32 s)

/-- The tables of 10_state.md section 4 follow their formulas at `F = 20`, rounding half away from zero. -/
def Obligations.ConstantTablesFollowTheirFormulas : Prop :=
  rawOne = 2 ^ 20 ∧ rawHalf = 2 ^ 19 ∧ rawHpi = asr rawPi 1 ∧ rawPi = roundQuotient (314159265 * 2 ^ 20) (10 ^ 8) ∧
  rawTau = 2 * rawPi ∧ rawE = roundQuotient (2718281828 * 2 ^ 20) (10 ^ 9) ∧
  rawQuarter = 2 ^ 18 ∧ rawTwo = 2 ^ 21 ∧ rawRc23 = roundQuotient (2 ^ 20) 6 ∧ rawRc45 = roundQuotient (2 ^ 20) 20 ∧
  rawRc67 = roundQuotient (2 ^ 20) 42 ∧ rawRc89 = roundQuotient (2 ^ 20) 72 ∧ rawDla = rawPi ∧
  rawDlb = roundQuotient (2 * 314159265 * 2 ^ 20) (5 * 10 ^ 8) ∧
  rawDlc = roundQuotient (314159265 * 2 ^ 20) (3 * 10 ^ 8) ∧ rawSatmax = 2 ^ 31 - 1

/-- FROM_RAW, FROM_I32 and TO_I32 on patterns: the word itself, shifted left by 20, shifted right by 20 with the sign; status
OK, nothing else changes (42_canonical_ops.md). -/
def Obligations.ConversionsOnPatterns : Prop :=
  ∀ s : State,
    exec .fromRaw s = .next (endsOk s.opa s) ∧
    exec .fromI32 s = .next (endsOk (s.opa <<< 20) s) ∧
    exec .toI32 s = .next (endsOk (s.opa.sshiftRight 20) s)

/-- NEG, ABS and CMP on patterns, with wraparound at 0x80000000 and a signed comparison; status OK, nothing else changes
(42_canonical_ops.md). -/
def Obligations.NegAbsCmpOnPatterns : Prop :=
  ∀ s : State,
    exec .neg s = .next (endsOk (-s.opa) s) ∧
    exec .abs s = .next (endsOk (if s.opa.msb then -s.opa else s.opa) s) ∧
    exec .cmp s = .next (endsOk
      (if s.opa.slt s.opb then 0xFFFFFFFF#32 else if s.opa = s.opb then 0#32 else 1#32) s)

/-- FROM_DECIMAL within the range of `decimal_points`: the quotient rounded toward zero, then the floor of its rescaling,
modulo 2^32; status OK, nothing else changes (42_canonical_ops.md). -/
def Obligations.FromDecimalInRange : Prop :=
  ∀ s : State, 0 ≤ s.opb.toInt → s.opb.toInt ≤ 18 →
    exec .fromDecimal s = .next (endsOk (BitVec.ofInt 32
      (Int.tdiv (s.opa.toInt * 2 ^ 32) (10 ^ s.opb.toInt.toNat) / 2 ^ 12)) s)

/-- 60_exceptions.md R285: DOMAIN_ERROR (code 5) ends a FROM_DECIMAL with OPB below 0 or above 18, and no other command. -/
def Obligations.DomainErrorExactly : Prop :=
  (∀ s : State, s.opb.toInt < 0 ∨ 18 < s.opb.toInt →
    exec .fromDecimal s = .next (endsWith .domainError s) ∧ statusCode (endsWith .domainError s).status = 5#4) ∧
  (∀ (i : Instr) (s t : State), exec i s = .next t → statusCode t.status = 5#4 →
    i = .fromDecimal ∧ (s.opb.toInt < 0 ∨ 18 < s.opb.toInt))

/-- CLAMP with `min <= max`: the bounds as patterns shifted left by 20, the lower test first, signed; with bounds that convert
exactly it is the clamp of the numbers; status OK, nothing else changes (42_canonical_ops.md). -/
def Obligations.ClampOnPatterns : Prop :=
  ∀ s : State, s.opb.toInt ≤ s.opc.toInt →
    exec .clamp s = .next (endsOk
      (if s.opa.slt (s.opb <<< 20) then s.opb <<< 20
        else if (s.opc <<< 20).slt s.opa then s.opc <<< 20 else s.opa) s) ∧
    (-2048 ≤ s.opb.toInt → s.opc.toInt ≤ 2047 → exec .clamp s = .next (endsOk (BitVec.ofInt 32
      (max (s.opb.toInt * 2 ^ 20) (min s.opa.toInt (s.opc.toInt * 2 ^ 20)))) s))

/-- 60_exceptions.md R283: INVALID_RANGE (code 2) ends a CLAMP with `min > max`, whatever `self` is; `min = max` is legal; no
other command raises it. -/
def Obligations.InvalidRangeExactly : Prop :=
  (∀ s : State, s.opc.toInt < s.opb.toInt →
    exec .clamp s = .next (endsWith .invalidRange s) ∧ statusCode (endsWith .invalidRange s).status = 2#4) ∧
  (∀ s : State, s.opb = s.opc → ∃ r, exec .clamp s = .next (endsOk r s)) ∧
  (∀ (i : Instr) (s t : State), exec i s = .next t → statusCode t.status = 2#4 →
    i = .clamp ∧ s.opc.toInt < s.opb.toInt)

/-! ### Sine -/

/-- SIN computes the 32-bit datapath of the rule's pseudocode on every pattern: two's-complement additions, 64-bit products
shifted right by 20; status OK, nothing else changes (43_sine.md section 2). -/
def Obligations.SinIsTheFixedWidthDatapath : Prop :=
  ∀ s : State, exec .sin s = .next (endsOk (busSine s.opa) s)

/-- SIN_DIMLESS likewise, at the built `DL_REMAP_SHIFT` of 2 (43_sine.md section 3; entry 9). -/
def Obligations.SinDimlessIsTheFixedWidthDatapath : Prop :=
  ∀ s : State, exec .sinDimless s = .next (endsOk (busSineDimless s.opa) s)

/-- SIN is symmetric about a quarter turn on `[0, PI]` and odd about half a turn on `[0, TAU]`, exactly and for every raw
value (43_sine.md section 2 derives it on a grid). -/
def Obligations.SinSymmetries : Prop :=
  ∀ s t : State, exec .sin s = .next t →
    (0 ≤ s.opa.toInt → s.opa.toInt ≤ 3294199 →
      ∃ u, exec .sin { s with opa := 0x003243F7#32 - s.opa } = .next u ∧ u.res = t.res) ∧
    (0 ≤ s.opa.toInt → s.opa.toInt ≤ 6588398 →
      ∃ u, exec .sin { s with opa := 0x006487EE#32 - s.opa } = .next u ∧ u.res = -t.res)

/-! ### Reciprocal -/

/-- INVERSE of 0 is 0, of ONE is ONE and of -ONE is -ONE, with status OK (44_reciprocal.md section 1). -/
def Obligations.InverseOfZeroAndOne : Prop :=
  ∀ s : State,
    (s.opa = 0#32 → exec .inverse s = .next (endsOk 0#32 s)) ∧
    (s.opa = 0x00100000#32 → exec .inverse s = .next (endsOk 0x00100000#32 s)) ∧
    (s.opa = 0xFFF00000#32 → exec .inverse s = .next (endsOk 0xFFF00000#32 s))

/-- 44_reciprocal.md R243: saturation, for exactly the raw values 1, -1 and 0x80000000, with status OK. -/
def Obligations.InverseSaturates : Prop :=
  (∀ s : State,
    (s.opa = 1#32 → exec .inverse s = .next (endsOk 0x7FFFFFFF#32 s)) ∧
    (s.opa = 0xFFFFFFFF#32 → exec .inverse s = .next (endsOk 0x80000001#32 s)) ∧
    (s.opa = 0x80000000#32 → exec .inverse s = .next (endsOk 0x80000001#32 s))) ∧
  (∀ x : Word, x ≠ 0#32 →
    (wabs x.toInt ≤ Config.satThreshold ↔ x = 1#32 ∨ x = 0xFFFFFFFF#32 ∨ x = 0x80000000#32))

/-- INVERSE of a magnitude above ONE is the truncated geometric series about `2^-n`, `n` the rounded-up exponent of the
integer part: the sum of 1 to 11 terms, the sign reapplied, always OK (44_reciprocal.md section 1). -/
def Obligations.InverseAboveOneIsATruncatedSeries : Prop :=
  ∀ (s : State) (m : Nat), m = s.opa.toInt.natAbs → 1048576 < m → m < 2147483648 →
    ∃ n j : Nat, n ≤ 11 ∧ m / 2 ^ 20 ≤ 2 ^ n ∧ (n = 0 ∨ 2 ^ (n - 1) < m / 2 ^ 20) ∧ 1 ≤ j ∧ j ≤ 11 ∧
      (j = 11 ∨ wabs (seriesTerm (2 ^ (20 - n)) (csub rawOne (cmul (2 ^ (20 - n)) m)) j) < 100) ∧
      (∀ k, 1 ≤ k → k < j → 100 ≤ wabs (seriesTerm (2 ^ (20 - n)) (csub rawOne (cmul (2 ^ (20 - n)) m)) k)) ∧
      exec .inverse s = .next (endsOk
        (if s.opa.toInt < 0
          then -(BitVec.ofInt 32 (seriesSum (2 ^ (20 - n)) (csub rawOne (cmul (2 ^ (20 - n)) m)) j))
          else BitVec.ofInt 32 (seriesSum (2 ^ (20 - n)) (csub rawOne (cmul (2 ^ (20 - n)) m)) j)) s)

/-- INVERSE of a magnitude below ONE: the first Newton-Raphson iterate of 1 to 8 that differs from the one before by less than
the threshold, the sign reapplied; CONVERGENCE_FAILURE when none does (44_reciprocal.md section 1, at the built seed rule,
entry 9). -/
def Obligations.InverseBelowOneIsNewtonRaphson : Prop :=
  ∀ (s : State) (m : Nat), m = s.opa.toInt.natAbs → 2 ≤ m → m < 1048576 →
    (∀ k, k < 8 → newtonMeets m (seedValue Config.build.nrSeed m) k →
      (∀ j, j < k → ¬ newtonMeets m (seedValue Config.build.nrSeed m) j) →
      exec .inverse s = .next (endsOk
        (if s.opa.toInt < 0
          then -(BitVec.ofInt 32 (newtonIterate m (seedValue Config.build.nrSeed m) (k + 1)))
          else BitVec.ofInt 32 (newtonIterate m (seedValue Config.build.nrSeed m) (k + 1))) s)) ∧
    ((∀ k, k < 8 → ¬ newtonMeets m (seedValue Config.build.nrSeed m) k) →
      exec .inverse s = .next (endsWith .convergenceFailure s))

/-- 44_reciprocal.md R248: when 8 steps have run and none met the threshold, INVERSE ends with CONVERGENCE_FAILURE, RES kept
and ERRS set; only case 5 of INVERSE raises it. -/
def Obligations.ConvergenceFailureExactly : Prop :=
  (∀ (s : State) (m : Nat), m = s.opa.toInt.natAbs → 2 ≤ m → m < 1048576 →
    (∀ k, k < 8 → ¬ newtonMeets m (seedValue Config.build.nrSeed m) k) →
    ∃ t, exec .inverse s = .next t ∧ statusCode t.status = 3#4 ∧ statusErrs t.status = true ∧ t.res = s.res) ∧
  (∀ (i : Instr) (s t : State), exec i s = .next t → statusCode t.status = 3#4 →
    i = .inverse ∧ 2 ≤ s.opa.toInt.natAbs ∧ s.opa.toInt.natAbs < 1048576 ∧
    ∀ k, k < 8 → ¬ newtonMeets s.opa.toInt.natAbs (seedValue Config.build.nrSeed s.opa.toInt.natAbs) k)

/-- The three seed rules on `2 <= m < ONE`: the power of two in `[1/(2m), 1/m)`, ONE or TWO, the power of two in
`[1/m, 2/m)`, narrowed to 32 bits (44_reciprocal.md section 1). -/
def Obligations.SeedRules : Prop :=
  ∀ m : Int, 2 ≤ m → m < 1048576 →
    (∃ k : Nat, 1048576 ≤ m * 2 ^ (k + 1) ∧ (k = 0 ∨ m * 2 ^ k < 1048576) ∧
      seedValue .halfBracket m = Int.bmod (1048576 * 2 ^ k) (2 ^ 32)) ∧
    seedValue .literal m = (if m < 524288 then 1048576 else 2097152) ∧
    (∃ k : Nat, 1048576 ≤ m * 2 ^ k ∧ (k = 0 ∨ m * 2 ^ (k - 1) < 1048576) ∧
      seedValue .above m = Int.bmod (1048576 * 2 ^ k) (2 ^ 32))

/-- At the built seed rule, raw magnitudes 2 to 255 give 0 with status OK, and 256 to 512 end with CONVERGENCE_FAILURE
(44_reciprocal.md section 1; entry 9). -/
def Obligations.InverseOfTinyMagnitudes : Prop :=
  ∀ s : State,
    (2 ≤ s.opa.toInt.natAbs → s.opa.toInt.natAbs ≤ 255 → exec .inverse s = .next (endsOk 0#32 s)) ∧
    (256 ≤ s.opa.toInt.natAbs → s.opa.toInt.natAbs ≤ 512 → exec .inverse s = .next (endsWith .convergenceFailure s))

/-- INVERSE is odd: but for 0x80000000, the negated operand gives the same code and the negated result (44_reciprocal.md
section 1, which derives it). -/
def Obligations.InverseIsOdd : Prop :=
  ∀ s t : State, s.opa ≠ 0x80000000#32 → exec .inverse s = .next t →
    ∃ u, exec .inverse { s with opa := -s.opa } = .next u ∧ statusCode u.status = statusCode t.status ∧
      (statusCode t.status = 0#4 → u.res = -t.res)

/-- INV_I32: 0 gives 0, a magnitude of 1 gives ONE with the sign, any other magnitude the truncated series about
`floor(ONE / 2^n)`, the sign reapplied; always OK, nothing else changes (44_reciprocal.md section 2). -/
def Obligations.InvI32IsATruncatedSeries : Prop :=
  ∀ (s : State) (m : Nat), m = s.opa.toInt.natAbs →
    (m = 0 → exec .invI32 s = .next (endsOk 0#32 s)) ∧
    (m = 1 → exec .invI32 s = .next (endsOk (if s.opa.toInt < 0 then 0xFFF00000#32 else 0x00100000#32) s)) ∧
    (2 ≤ m →
      ∃ n j : Nat, 1 ≤ n ∧ n ≤ 31 ∧ m ≤ 2 ^ n ∧ 2 ^ (n - 1) < m ∧ 1 ≤ j ∧ j ≤ 11 ∧
        (j = 11 ∨ wabs (seriesTerm (2 ^ 20 / 2 ^ n) (csub rawOne (wrap 32 (2 ^ 20 / 2 ^ n * m))) j) < 100) ∧
        (∀ k, 1 ≤ k → k < j →
          100 ≤ wabs (seriesTerm (2 ^ 20 / 2 ^ n) (csub rawOne (wrap 32 (2 ^ 20 / 2 ^ n * m))) k)) ∧
        exec .invI32 s = .next (endsOk
          (if s.opa.toInt < 0
            then -(BitVec.ofInt 32 (seriesSum (2 ^ 20 / 2 ^ n) (csub rawOne (wrap 32 (2 ^ 20 / 2 ^ n * m))) j))
            else BitVec.ofInt 32 (seriesSum (2 ^ 20 / 2 ^ n) (csub rawOne (wrap 32 (2 ^ 20 / 2 ^ n * m))) j)) s))

/-- `INV_I32(d)` is `INVERSE(FROM_I32(d))` for `1 <= |d| <= 2047` (44_reciprocal.md section 2 derives it by checking). -/
def Obligations.InvI32AgreesWithInverse : Prop :=
  ∀ s : State, 1 ≤ s.opa.toInt.natAbs → s.opa.toInt.natAbs ≤ 2047 → ∃ r,
    exec .invI32 s = .next (endsOk r s) ∧
    exec .inverse { s with opa := s.opa <<< 20 } = .next (endsOk r { s with opa := s.opa <<< 20 })
end

