-- ==== Sys2Proof/Laws/Decode.lean ====
section
/-! SUPPORT. The fields of a packed word, and that no two rows of the opcode table overlap. -/

namespace Sys2Proof

variable (fb fa : BitVec 8) (ksel : BitVec 4) (kb ka : BitVec 2) (op : BitVec 5)

@[simp] theorem opField_packWord : opField (packWord fb fa ksel kb ka op) = op := by
  apply BitVec.eq_of_getLsbD_eq
  intro i hi
  simp only [opField, packWord, BitVec.getLsbD_extractLsb', BitVec.getLsbD_cast, BitVec.getLsbD_append]
  simp [hi]

@[simp] theorem rsvField_packWord : rsvField (packWord fb fa ksel kb ka op) = 0#3 := by
  apply BitVec.eq_of_getLsbD_eq
  intro i hi
  simp only [rsvField, packWord, BitVec.getLsbD_extractLsb', BitVec.getLsbD_cast, BitVec.getLsbD_append]
  simp [hi]

@[simp] theorem kaField_packWord : kaField (packWord fb fa ksel kb ka op) = ka := by
  apply BitVec.eq_of_getLsbD_eq
  intro i hi
  have h1 : ¬ 8 + i < 5 := by omega
  have h2 : ¬ 8 + i - 5 < 3 := by omega
  have h3 : 8 + i - 5 - 3 = i := by omega
  simp only [kaField, packWord, BitVec.getLsbD_extractLsb', BitVec.getLsbD_cast, BitVec.getLsbD_append]
  simp [h1, h2, h3, hi]

@[simp] theorem kbField_packWord : kbField (packWord fb fa ksel kb ka op) = kb := by
  apply BitVec.eq_of_getLsbD_eq
  intro i hi
  have h1 : ¬ 10 + i < 5 := by omega
  have h2 : ¬ 10 + i - 5 < 3 := by omega
  have h3 : 10 + i - 5 - 3 = i + 2 := by omega
  simp only [kbField, packWord, BitVec.getLsbD_extractLsb', BitVec.getLsbD_cast, BitVec.getLsbD_append]
  simp [h1, h2, h3, hi]

@[simp] theorem kselField_packWord : kselField (packWord fb fa ksel kb ka op) = ksel := by
  apply BitVec.eq_of_getLsbD_eq
  intro i hi
  have h1 : ¬ 12 + i < 5 := by omega
  have h2 : ¬ 12 + i - 5 < 3 := by omega
  have h3 : 12 + i - 5 - 3 = i + 4 := by omega
  simp only [kselField, packWord, BitVec.getLsbD_extractLsb', BitVec.getLsbD_cast, BitVec.getLsbD_append]
  simp [h1, h2, h3, hi]

@[simp] theorem faField_packWord : faField (packWord fb fa ksel kb ka op) = fa := by
  apply BitVec.eq_of_getLsbD_eq
  intro i hi
  have h1 : ¬ 16 + i < 5 := by omega
  have h2 : ¬ 16 + i - 5 < 3 := by omega
  have h3 : 16 + i - 5 - 3 = i + 8 := by omega
  simp only [faField, packWord, BitVec.getLsbD_extractLsb', BitVec.getLsbD_cast, BitVec.getLsbD_append]
  simp [h1, h2, h3, hi]

@[simp] theorem fbField_packWord : fbField (packWord fb fa ksel kb ka op) = fb := by
  apply BitVec.eq_of_getLsbD_eq
  intro i hi
  have h1 : ¬ 24 + i < 5 := by omega
  have h2 : ¬ 24 + i - 5 < 3 := by omega
  have h3 : 24 + i - 5 - 3 = i + 16 := by omega
  simp only [fbField, packWord, BitVec.getLsbD_extractLsb', BitVec.getLsbD_cast, BitVec.getLsbD_append]
  simp [h1, h2, h3, hi, show ¬ i + 12 < 4 by omega]

/-- A word is put together from its fields when RSV is 0. -/
theorem packWord_fields (w : Word) (h : rsvField w = 0#3) :
    packWord (fbField w) (faField w) (kselField w) (kbField w) (kaField w) (opField w) = w := by
  have e : (fbField w ++ faField w ++ kselField w ++ kbField w ++ kaField w ++ rsvField w ++ opField w).cast rfl = w := by
    apply BitVec.eq_of_getLsbD_eq
    intro i hi
    have key : ∀ j : Fin 32, ((fbField w ++ faField w ++ kselField w ++ kbField w ++ kaField w ++ rsvField w
        ++ opField w).cast rfl : Word).getLsbD j.val = w.getLsbD j.val := by
      intro j
      fin_cases j <;>
        (simp only [fbField, faField, kselField, kbField, kaField, rsvField, opField, BitVec.getLsbD_cast,
          BitVec.getLsbD_append, BitVec.getLsbD_extractLsb']; simp)
    exact key ⟨i, hi⟩
  rw [h] at e
  exact e

/-- No word lies under two rows of the opcode table: two rows differ in a bit that both fix. -/
theorem opcodeTable_disjoint :
    opcodeTable.Pairwise fun a b => a.pattern &&& (a.mask &&& b.mask) ≠ b.pattern &&& (a.mask &&& b.mask) := by
  decide

end Sys2Proof
end

