-- ==== Sys2Proof/Laws/State.lean ====
section
/-! SUPPORT. What each field is after each update of the state: one lemma per field per update, true by rfl. -/

namespace Sys2Proof.Machine.State

variable (s : State)

@[simp] theorem setCmd_cmd (v : Word) : (s.setCmd v).cmd = v := rfl
@[simp] theorem setCmd_opa (v : Word) : (s.setCmd v).opa = s.opa := rfl
@[simp] theorem setCmd_opb (v : Word) : (s.setCmd v).opb = s.opb := rfl
@[simp] theorem setCmd_opc (v : Word) : (s.setCmd v).opc = s.opc := rfl
@[simp] theorem setCmd_res (v : Word) : (s.setCmd v).res = s.res := rfl
@[simp] theorem setCmd_status (v : Word) : (s.setCmd v).status = s.status := rfl
@[simp] theorem setCmd_port (v : Word) : (s.setCmd v).port = s.port := rfl
@[simp] theorem setCmd_response (v : Word) : (s.setCmd v).response = s.response := rfl

@[simp] theorem setOpa_cmd (v : Word) : (s.setOpa v).cmd = s.cmd := rfl
@[simp] theorem setOpa_opa (v : Word) : (s.setOpa v).opa = v := rfl
@[simp] theorem setOpa_opb (v : Word) : (s.setOpa v).opb = s.opb := rfl
@[simp] theorem setOpa_opc (v : Word) : (s.setOpa v).opc = s.opc := rfl
@[simp] theorem setOpa_res (v : Word) : (s.setOpa v).res = s.res := rfl
@[simp] theorem setOpa_status (v : Word) : (s.setOpa v).status = s.status := rfl
@[simp] theorem setOpa_port (v : Word) : (s.setOpa v).port = s.port := rfl
@[simp] theorem setOpa_response (v : Word) : (s.setOpa v).response = s.response := rfl

@[simp] theorem setOpb_cmd (v : Word) : (s.setOpb v).cmd = s.cmd := rfl
@[simp] theorem setOpb_opa (v : Word) : (s.setOpb v).opa = s.opa := rfl
@[simp] theorem setOpb_opb (v : Word) : (s.setOpb v).opb = v := rfl
@[simp] theorem setOpb_opc (v : Word) : (s.setOpb v).opc = s.opc := rfl
@[simp] theorem setOpb_res (v : Word) : (s.setOpb v).res = s.res := rfl
@[simp] theorem setOpb_status (v : Word) : (s.setOpb v).status = s.status := rfl
@[simp] theorem setOpb_port (v : Word) : (s.setOpb v).port = s.port := rfl
@[simp] theorem setOpb_response (v : Word) : (s.setOpb v).response = s.response := rfl

@[simp] theorem setOpc_cmd (v : Word) : (s.setOpc v).cmd = s.cmd := rfl
@[simp] theorem setOpc_opa (v : Word) : (s.setOpc v).opa = s.opa := rfl
@[simp] theorem setOpc_opb (v : Word) : (s.setOpc v).opb = s.opb := rfl
@[simp] theorem setOpc_opc (v : Word) : (s.setOpc v).opc = v := rfl
@[simp] theorem setOpc_res (v : Word) : (s.setOpc v).res = s.res := rfl
@[simp] theorem setOpc_status (v : Word) : (s.setOpc v).status = s.status := rfl
@[simp] theorem setOpc_port (v : Word) : (s.setOpc v).port = s.port := rfl
@[simp] theorem setOpc_response (v : Word) : (s.setOpc v).response = s.response := rfl

@[simp] theorem setRes_cmd (v : Word) : (s.setRes v).cmd = s.cmd := rfl
@[simp] theorem setRes_opa (v : Word) : (s.setRes v).opa = s.opa := rfl
@[simp] theorem setRes_opb (v : Word) : (s.setRes v).opb = s.opb := rfl
@[simp] theorem setRes_opc (v : Word) : (s.setRes v).opc = s.opc := rfl
@[simp] theorem setRes_res (v : Word) : (s.setRes v).res = v := rfl
@[simp] theorem setRes_status (v : Word) : (s.setRes v).status = s.status := rfl
@[simp] theorem setRes_port (v : Word) : (s.setRes v).port = s.port := rfl
@[simp] theorem setRes_response (v : Word) : (s.setRes v).response = s.response := rfl

@[simp] theorem setStatus_cmd (v : Word) : (s.setStatus v).cmd = s.cmd := rfl
@[simp] theorem setStatus_opa (v : Word) : (s.setStatus v).opa = s.opa := rfl
@[simp] theorem setStatus_opb (v : Word) : (s.setStatus v).opb = s.opb := rfl
@[simp] theorem setStatus_opc (v : Word) : (s.setStatus v).opc = s.opc := rfl
@[simp] theorem setStatus_res (v : Word) : (s.setStatus v).res = s.res := rfl
@[simp] theorem setStatus_status (v : Word) : (s.setStatus v).status = v := rfl
@[simp] theorem setStatus_port (v : Word) : (s.setStatus v).port = s.port := rfl
@[simp] theorem setStatus_response (v : Word) : (s.setStatus v).response = s.response := rfl

@[simp] theorem setPort_cmd (p : List PortEvent) : (s.setPort p).cmd = s.cmd := rfl
@[simp] theorem setPort_opa (p : List PortEvent) : (s.setPort p).opa = s.opa := rfl
@[simp] theorem setPort_opb (p : List PortEvent) : (s.setPort p).opb = s.opb := rfl
@[simp] theorem setPort_opc (p : List PortEvent) : (s.setPort p).opc = s.opc := rfl
@[simp] theorem setPort_res (p : List PortEvent) : (s.setPort p).res = s.res := rfl
@[simp] theorem setPort_status (p : List PortEvent) : (s.setPort p).status = s.status := rfl
@[simp] theorem setPort_port (p : List PortEvent) : (s.setPort p).port = p := rfl
@[simp] theorem setPort_response (p : List PortEvent) : (s.setPort p).response = s.response := rfl

@[simp] theorem setResponse_cmd (r : Option Response) : (s.setResponse r).cmd = s.cmd := rfl
@[simp] theorem setResponse_opa (r : Option Response) : (s.setResponse r).opa = s.opa := rfl
@[simp] theorem setResponse_opb (r : Option Response) : (s.setResponse r).opb = s.opb := rfl
@[simp] theorem setResponse_opc (r : Option Response) : (s.setResponse r).opc = s.opc := rfl
@[simp] theorem setResponse_res (r : Option Response) : (s.setResponse r).res = s.res := rfl
@[simp] theorem setResponse_status (r : Option Response) : (s.setResponse r).status = s.status := rfl
@[simp] theorem setResponse_port (r : Option Response) : (s.setResponse r).port = s.port := rfl
@[simp] theorem setResponse_response (r : Option Response) : (s.setResponse r).response = r := rfl

/-- Two states with the same fields are the same state. -/
theorem eq_of_fields {s t : State} (h1 : s.cmd = t.cmd) (h2 : s.opa = t.opa) (h3 : s.opb = t.opb) (h4 : s.opc = t.opc)
    (h5 : s.res = t.res) (h6 : s.status = t.status) (h7 : s.port = t.port) (h8 : s.response = t.response) : s = t := by
  cases s; cases t; simp_all

end Sys2Proof.Machine.State
end

