-- ==== Sys2Proof/Laws/Ops.lean ====
section
/-! SUPPORT. What the shared operations can do: the STATUS fields, the end of a command, the number primitives and the
register window, one lemma for each thing they do. -/

namespace Sys2Proof.Machine

/-! ### STATUS -/

@[simp] theorem statusCode_statusWithCode (st : Word) (c : BitVec 4) : statusCode (statusWithCode st c) = c := by
  apply BitVec.eq_of_getLsbD_eq
  intro i hi
  simp only [statusCode, statusWithCode, BitVec.getLsbD_extractLsb', BitVec.getLsbD_cast, BitVec.getLsbD_append]
  simp [hi]

@[simp] theorem getLsbD_statusWithCode_high (st : Word) (c : BitVec 4) (i : Nat) (h : 4 ≤ i) :
    (statusWithCode st c).getLsbD i = st.getLsbD i := by
  have hi : ¬ i < 4 := by omega
  simp only [statusWithCode, BitVec.getLsbD_cast, BitVec.getLsbD_append, hi, if_false, BitVec.getLsbD_extractLsb', Nat.add_sub_cancel' h]
  by_cases h32 : i < 32
  · simp [show i - 4 < 28 by omega]
  · simp [show ¬ i - 4 < 28 by omega, BitVec.getLsbD_of_ge st i (by omega)]

@[simp] theorem statusErrs_statusWithCode (st : Word) (c : BitVec 4) : statusErrs (statusWithCode st c) = statusErrs st :=
  getLsbD_statusWithCode_high st c 8 (by decide)

/-- Every bit of the mask of ERRS. -/
theorem getLsbD_errsMask (i : Nat) : (0x00000100#32).getLsbD i = decide (i = 8) := by
  by_cases h : i < 32
  · have key : ∀ j : Fin 32, (0x00000100#32).getLsbD j.val = decide (j.val = 8) := by decide
    exact key ⟨i, h⟩
  · rw [BitVec.getLsbD_of_ge _ _ (by omega)]
    simp
    omega

/-- Every bit of the mask that clears ERRS. -/
theorem getLsbD_errsClearMask (i : Nat) : (0xFFFFFEFF#32).getLsbD i = (decide (i < 32) && decide (i ≠ 8)) := by
  by_cases h : i < 32
  · have key : ∀ j : Fin 32, (0xFFFFFEFF#32).getLsbD j.val = (decide (j.val < 32) && decide (j.val ≠ 8)) := by decide
    exact key ⟨i, h⟩
  · rw [BitVec.getLsbD_of_ge _ _ (by omega)]
    simp [h]

@[simp] theorem statusCode_statusSetErrs (st : Word) : statusCode (statusSetErrs st) = statusCode st := by
  apply BitVec.eq_of_getLsbD_eq
  intro i hi
  have h8 : i ≠ 8 := by omega
  simp [statusCode, statusSetErrs, getLsbD_errsMask, h8]

@[simp] theorem statusErrs_statusSetErrs (st : Word) : statusErrs (statusSetErrs st) = true := by
  simp [statusErrs, statusSetErrs]

@[simp] theorem statusCode_statusClearErrs (st : Word) : statusCode (statusClearErrs st) = statusCode st := by
  apply BitVec.eq_of_getLsbD_eq
  intro i hi
  have h8 : i ≠ 8 := by omega
  have h32 : i < 32 := by omega
  simp only [statusCode, statusClearErrs, BitVec.getLsbD_extractLsb', BitVec.getLsbD_and, getLsbD_errsClearMask]
  simp [h8, h32]

@[simp] theorem statusErrs_statusClearErrs (st : Word) : statusErrs (statusClearErrs st) = false := by
  simp [statusErrs, statusClearErrs]

@[simp] theorem statusCode_statusAfterOk (st : Word) : statusCode (statusAfterOk st) = 0#4 := by
  simp [statusAfterOk, okNumber]

@[simp] theorem statusErrs_statusAfterOk (st : Word) : statusErrs (statusAfterOk st) = statusErrs st := by
  simp [statusAfterOk]

@[simp] theorem statusCode_statusAfterError (st : Word) (c : ErrorCode) :
    statusCode (statusAfterError st c) = c.number := by
  simp [statusAfterError]

@[simp] theorem statusErrs_statusAfterError (st : Word) (c : ErrorCode) : statusErrs (statusAfterError st c) = true := by
  simp [statusAfterError]

@[simp] theorem statusCode_statusAfterHostWrite (st v : Word) :
    statusCode (statusAfterHostWrite st v) = statusCode st := by
  unfold statusAfterHostWrite
  split <;> simp

/-- An error's number is 1 to 5, so it is never OK's. -/
theorem errorNumber_range (c : ErrorCode) : 1 ≤ c.number.toNat ∧ c.number.toNat ≤ 5 := by
  cases c <;> decide

/-! ### The end of a command -/

/-- All that the end of a command leaves as it was. -/
theorem endCommand_frame (o : Result) (s : State) :
    (endCommand o s).cmd = s.cmd ∧ (endCommand o s).opa = s.opa ∧ (endCommand o s).opb = s.opb ∧
      (endCommand o s).opc = s.opc ∧ (endCommand o s).port = s.port ∧ (endCommand o s).response = s.response := by
  cases o <;> exact ⟨rfl, rfl, rfl, rfl, rfl, rfl⟩

@[simp] theorem endCommand_ok_res (r : Int) (s : State) : (endCommand (.ok r) s).res = pattern r := rfl
@[simp] theorem endCommand_ok_status (r : Int) (s : State) : (endCommand (.ok r) s).status = statusAfterOk s.status := rfl
@[simp] theorem endCommand_err_res (c : ErrorCode) (s : State) : (endCommand (.err c) s).res = s.res := rfl
@[simp] theorem endCommand_err_status (c : ErrorCode) (s : State) :
    (endCommand (.err c) s).status = statusAfterError s.status c := rfl

/-! ### Number primitives -/

/-- A value is a signed 32-bit number. -/
def Fits32 (v : Int) : Prop := -2147483648 ≤ v ∧ v ≤ 2147483647

theorem sext_fits (w : Word) : Fits32 (sext w) := by
  have h1 := BitVec.le_toInt w
  have h2 := BitVec.toInt_lt (x := w)
  unfold Fits32 sext
  constructor <;> omega

theorem sext_pattern (r : Int) : sext (pattern r) = wrap 32 r := by
  simp [sext, pattern, wrap, BitVec.toInt_ofInt]

@[simp] theorem pattern_sext (w : Word) : pattern (sext w) = w := by
  simp [sext, pattern]

/-- Narrowing before a register is written changes nothing: the register narrows too. -/
@[simp] theorem pattern_wrap (r : Int) : pattern (wrap 32 r) = pattern r := by
  apply BitVec.eq_of_toInt_eq
  simp [pattern, wrap, BitVec.toInt_ofInt]

theorem wrap_fits (v : Int) : Fits32 (wrap 32 v) := by
  rw [← sext_pattern]
  exact sext_fits _

theorem wrap_of_fits {v : Int} (h : Fits32 v) : wrap 32 v = v := by
  unfold Fits32 at h
  unfold wrap
  rw [Int.bmod_eq_of_le] <;> omega

@[simp] theorem wrap_sext (w : Word) : wrap 32 (sext w) = sext w := wrap_of_fits (sext_fits w)

@[simp] theorem wrap_wrap (v : Int) : wrap 32 (wrap 32 v) = wrap 32 v := wrap_of_fits (wrap_fits v)

/-- A shift by nothing. -/
@[simp] theorem shift_zero (v : Int) : shift 32 v 0 = v := by
  simp [shift, asr, pow2]

@[simp] theorem align_canonical (a : Int) : align (canonical a) = a := by
  simp [align, canonical]

theorem cadd_eq (a b : Int) : cadd a b = wrap 32 (a + b) := by
  simp [cadd, addScaled]

theorem csub_eq (a b : Int) : csub a b = wrap 32 (a - b) := by
  simp [csub, subScaled]

theorem cmul_eq (a b : Int) : cmul a b = wrap 32 (shift 64 (a * b) 20) := rfl

/-! ### The register window -/

@[simp] theorem regAt_offset (r : Reg) : regAt r.offset = some r := by cases r <;> rfl

@[simp] theorem readTarget_offset (r : Reg) : readTarget r.offset 4 = some r := by cases r <;> rfl

theorem readTarget_eq_some {off n : Nat} {r : Reg} (h : readTarget off n = some r) : n = 4 ∧ off = r.offset := by
  unfold readTarget at h
  split at h
  · rename_i hn
    refine ⟨hn.1, ?_⟩
    unfold regAt at h
    split at h <;> first | (cases h; rfl) | cases h
  · cases h

theorem writeTarget_eq_some {off n : Nat} {r : Reg} (h : writeTarget off n = some r) :
    n = 4 ∧ off = r.offset ∧ r.writable = true := by
  unfold writeTarget at h
  obtain ⟨h1, h2⟩ := Option.filter_eq_some_iff.mp h
  obtain ⟨h3, h4⟩ := readTarget_eq_some h1
  exact ⟨h3, h4, h2⟩

end Sys2Proof.Machine
end

