-- ==== Sys2Proof/Laws/Meanings.lean ====
section
/-! SUPPORT. What a command and a step can do, said once: `exec` ends its command with an outcome that depends on the command
and the three operand registers alone, and each event at the port has one equation. -/

namespace Sys2Proof.Laws

open Sys2Proof.Machine

/-- The outcome of a command as a function of the operand registers' patterns. -/
def outcome (i : Instr) (a b c : Word) : Result :=
  match i with
  | .add ka kb => .ok (addScaled (scaledOperand ka a) (scaledOperand kb b))
  | .sub ka kb => .ok (subScaled (scaledOperand ka a) (scaledOperand kb b))
  | .mul ka kb => .ok (mulScaled (scaledOperand ka a) (scaledOperand kb b))
  | .div ka kb => divScaled (scaledOperand ka a) (scaledOperand kb b)
  | .const k => .ok (constTable k)
  | .fromRaw => .ok (sext a)
  | .fromI32 => .ok (fromInteger (sext a))
  | .fromDecimal => fromDecimalResult (sext a) (sext b)
  | .toI32 => .ok (toInteger (sext a))
  | .neg => .ok (wrap 32 (-(sext a)))
  | .abs => .ok (wabs (sext a))
  | .cmp => .ok (compareRaw (sext a) (sext b))
  | .clamp => clampResult (sext a) (sext b) (sext c)
  | .sin => .ok (sine (sext a))
  | .sinDimless => .ok (sineDimless Config.build (sext a))
  | .inverse => inverseResult Config.build (sext a)
  | .invI32 => .ok (invInteger (sext a))

/-- All that `exec` can do. -/
theorem exec_eq (i : Instr) (s : State) : exec i s = .next (endCommand (outcome i s.opa s.opb s.opc) s) := by
  cases i <;> rfl

/-- The outcome of a command word: ILLEGAL_COMMAND when it is no command. -/
def wordOutcome (v a b c : Word) : Result :=
  match decode v with
  | .ok i => outcome i a b c
  | .error _ => .err .illegalCommand

/-- All that an accepted CMD write can do to the registers. -/
theorem runCommand_eq (v : Word) (s : State) :
    runCommand v s = .next (endCommand (wordOutcome v s.opa s.opb s.opc) (s.setCmd v)) := by
  unfold runCommand wordOutcome
  cases decode v with
  | ok i => exact exec_eq i (s.setCmd v)
  | error e => rfl

theorem step_idle {s : State} (h : s.port = []) : step s = .next s := by
  simp [step, servePort, h]

theorem step_serve {s : State} {e : PortEvent} {rest : List PortEvent} (h : s.port = e :: rest) :
    step s = serve e (s.setPort rest) := by
  simp [step, servePort, h]

/-- What an accepted write is: a command, or a register's own write. -/
theorem serveWrite_accepted {off n : Nat} {r : Reg} (v : Word) (s : State) (h : writeTarget off n = some r)
    (hr : r ≠ .cmd) : serveWrite off n v s = .next (writeReg r v (s.setResponse (some .writeOkay))) := by
  unfold serveWrite
  rw [h]
  cases r <;> first | rfl | exact absurd rfl hr

theorem serveWrite_command {off n : Nat} (v : Word) (s : State) (h : writeTarget off n = some .cmd) :
    serveWrite off n v s = runCommand v (s.setResponse (some .writeOkay)) := by
  unfold serveWrite
  rw [h]

theorem serveWrite_refused {off n : Nat} (v : Word) (s : State) (h : writeTarget off n = none) :
    serveWrite off n v s = .next (s.setResponse (some .writeError)) := by
  unfold serveWrite
  rw [h]

/-- All that serving an event can do: answer and change nothing else, write one register, run a command, or reset. -/
theorem serve_cases {e : PortEvent} {s t : State} (h : serve e s = .next t) :
    (∃ a, t = s.setResponse (some a) ∧ ((∃ off n, e = .read off n) ∨ ∃ off n v, e = .write off n v ∧ writeTarget off n = none)) ∨
    (∃ off n v r, e = .write off n v ∧ writeTarget off n = some r ∧ r ≠ .cmd ∧
      t = writeReg r v (s.setResponse (some .writeOkay))) ∨
    (∃ v a, ((∃ off n, e = .write off n v ∧ writeTarget off n = some .cmd) ∨ e = .cmdWriteAborted v) ∧
      t = endCommand (wordOutcome v s.opa s.opb s.opc) ((s.setResponse (some a)).setCmd v)) ∨
    ((e = .reset ∨ ∃ v, e = .resetDuringCommand v) ∧ t = State.reset.setPort s.port) := by
  cases e with
  | read off n =>
    left
    simp only [serve, serveRead] at h
    split at h <;> (cases h; exact ⟨_, rfl, .inl ⟨_, _, rfl⟩⟩)
  | write off n v =>
    simp only [serve] at h
    cases hw : writeTarget off n with
    | none =>
      rw [serveWrite_refused v s hw] at h
      cases h
      exact .inl ⟨_, rfl, .inr ⟨_, _, _, rfl, hw⟩⟩
    | some r =>
      by_cases hr : r = .cmd
      · subst hr
        rw [serveWrite_command v s hw, runCommand_eq] at h
        cases h
        exact .inr (.inr (.inl ⟨v, _, .inl ⟨_, _, rfl, hw⟩, rfl⟩))
      · rw [serveWrite_accepted v s hw hr] at h
        cases h
        exact .inr (.inl ⟨_, _, _, r, rfl, hw, hr, rfl⟩)
  | reset =>
    simp only [serve] at h
    cases h
    exact .inr (.inr (.inr ⟨.inl rfl, rfl⟩))
  | resetDuringCommand v =>
    simp only [serve] at h
    cases h
    exact .inr (.inr (.inr ⟨.inr ⟨v, rfl⟩, rfl⟩))
  | cmdWriteAborted v =>
    simp only [serve, runCommand_eq] at h
    cases h
    exact .inr (.inr (.inl ⟨v, _, .inr rfl, rfl⟩))

end Sys2Proof.Laws
end

