-- ==== Sys2Proof/Laws/PerInstr.lean ====
section
/-! SUPPORT. Per command: the word that the encoder gives carries the command's opcode and a zero RSV field
(spec/30_encoding.md R92, R98). -/

namespace Sys2Proof.Laws.EncodedOpcode

/-- The encoded word's OP is the command's and its RSV is 0. -/
def Statement (i : Instr) : Prop := opField (encode i) = i.opcode ∧ rsvField (encode i) = 0#3

theorem add (ka kb : OperandKind) : Statement (.add ka kb) := by simp [Statement, encode, encodeArith]
theorem sub (ka kb : OperandKind) : Statement (.sub ka kb) := by simp [Statement, encode, encodeArith]
theorem mul (ka kb : OperandKind) : Statement (.mul ka kb) := by simp [Statement, encode, encodeArith]
theorem div (ka kb : OperandKind) : Statement (.div ka kb) := by simp [Statement, encode, encodeArith]
theorem const (k : ConstName) : Statement (.const k) := by simp [Statement, encode]
theorem fromRaw : Statement .fromRaw := by simp [Statement, encode]
theorem fromI32 : Statement .fromI32 := by simp [Statement, encode]
theorem fromDecimal : Statement .fromDecimal := by simp [Statement, encode]
theorem toI32 : Statement .toI32 := by simp [Statement, encode]
theorem neg : Statement .neg := by simp [Statement, encode]
theorem abs : Statement .abs := by simp [Statement, encode]
theorem cmp : Statement .cmp := by simp [Statement, encode]
theorem clamp : Statement .clamp := by simp [Statement, encode]
theorem sin : Statement .sin := by simp [Statement, encode]
theorem sinDimless : Statement .sinDimless := by simp [Statement, encode]
theorem inverse : Statement .inverse := by simp [Statement, encode]
theorem invI32 : Statement .invI32 := by simp [Statement, encode]

end Sys2Proof.Laws.EncodedOpcode
end

