-- ==== Sys2Proof/Tests/Slice0.lean ====
section
/-! SUPPORT. The model's own tests. The expected words and values are those of spec/95_test_vectors.md, or worked out by hand
from the rule named; and a witness for every obligation that has hypotheses. -/

namespace Sys2Proof.Tests

open Sys2Proof.Machine
open Sys2Proof.Safety

/-! ### Helpers -/

/-- The reset state with these operands. -/
def withOperands (a b c : Word) : State := { State.reset with opa := a, opb := b, opc := c }

/-- RES and STATUS of a next state. -/
def resultOf (o : Host.Outcome State Fault Refusal) : Option (Word × Word) :=
  match o with
  | .next t => some (t.res, t.status)
  | .fault _ => none
  | .refused _ => none

/-- The answer of a next state. -/
def answerOf (o : Host.Outcome State Fault Refusal) : Option Response :=
  match o with
  | .next t => t.response
  | .fault _ => none
  | .refused _ => none

/-- One step: the CMD write of `v` with the operands in place. -/
def runWord (v a b c : Word) : Option (Word × Word) := resultOf (step (arriveFirst (commandWrite v) (withOperands a b c)))

/-- The decoder's answer without the reason of a rejection. -/
def decoded (w : Word) : Option Instr := decodeTableWord 32 w.toNat

/-! ### Well-formedness: every check refuses an ill-formed term -/

theorem test_wf_scale_too_large : (Instr.add (.exp 128) .can).wellFormed = false := by decide
theorem test_wf_scale_too_small : (Instr.add .can (.exp (-129))).wellFormed = false := by decide
theorem test_wf_sub : (Instr.sub (.exp 128) .int).wellFormed = false ∧ (Instr.sub .int (.exp 1000)).wellFormed = false := by
  decide
theorem test_wf_mul : (Instr.mul (.exp (-129)) .can).wellFormed = false ∧ (Instr.mul .can (.exp 128)).wellFormed = false := by
  decide
theorem test_wf_div : (Instr.div (.exp 128) .can).wellFormed = false ∧ (Instr.div .can (.exp 128)).wellFormed = false := by
  decide
theorem test_wf_limits : (Instr.div (.exp 127) (.exp (-128))).wellFormed = true := by decide

/-! ### Decoding: a word written out from 30_encoding.md for every command -/

theorem test_decode_add : decoded 0x10000401#32 = some (.add .can (.exp 16)) := by decide
theorem test_decode_add_limits : decoded 0x80_7F_05_01#32 = some (.add (.exp 127) (.exp (-128))) := by decide
theorem test_decode_sub : decoded 0x00000A02#32 = some (.sub .int .int) := by decide
theorem test_decode_mul : decoded 0x00FC0903#32 = some (.mul (.exp (-4)) .int) := by decide
theorem test_decode_div : decoded 0x00000404#32 = some (.div .can (.exp 0)) := by decide
theorem test_decode_const : [0x00000008#32, 0x00001008#32, 0x00002008#32, 0x00003008#32].map decoded =
    [some (.const .zero), some (.const .one), some (.const .half), some (.const .hpi)] := by decide
theorem test_decode_const_rest : [0x00004008#32, 0x00005008#32, 0x00006008#32, 0x00007008#32].map decoded =
    [some (.const .pi), some (.const .tau), some (.const .e), none] := by decide
theorem test_decode_fromRaw : decoded 0x00000009#32 = some .fromRaw := by decide
theorem test_decode_fromI32 : decoded 0x0000000A#32 = some .fromI32 := by decide
theorem test_decode_fromDecimal : decoded 0x0000000B#32 = some .fromDecimal := by decide
theorem test_decode_toI32 : decoded 0x0000000C#32 = some .toI32 := by decide
theorem test_decode_neg : decoded 0x0000000D#32 = some .neg := by decide
theorem test_decode_abs : decoded 0x0000000E#32 = some .abs := by decide
theorem test_decode_cmp : decoded 0x0000000F#32 = some .cmp := by decide
theorem test_decode_clamp : decoded 0x00000010#32 = some .clamp := by decide
theorem test_decode_sin : decoded 0x00000014#32 = some .sin := by decide
theorem test_decode_sinDimless : decoded 0x00000015#32 = some .sinDimless := by decide
theorem test_decode_inverse : decoded 0x00000018#32 = some .inverse := by decide
theorem test_decode_invI32 : decoded 0x00000019#32 = some .invI32 := by decide

/-- 95_test_vectors.md, the illegal words. -/
theorem test_decode_illegal : [0x00000000#32, 0x00000005#32, 0x00000006#32, 0x00000011#32, 0x0000001F#32, 0x00000021#32,
    0x00000301#32, 0x00000C01#32].map decoded = List.replicate 8 none := by decide
theorem test_decode_illegal_fields : [0x00010001#32, 0x01000001#32, 0x00001001#32, 0x00007008#32, 0x00004108#32,
    0x00000114#32, 0x00010014#32, 0x80000018#32].map decoded = List.replicate 8 none := by decide

/-- Each rejection has the name of the check that makes it (30_encoding.md R99, R101). -/
theorem test_reject_names :
    decode 0x00000021#32 = .error .reservedBits ∧ decode 0x00000005#32 = .error .modulo ∧
    decode 0x0000001F#32 = .error .reservedOpcode ∧ decode 0x00000301#32 = .error .reservedKind ∧
    decode 0x00010001#32 = .error .scaleWithoutExp ∧ decode 0x00007008#32 = .error .reservedSelector ∧
    decode 0x00000114#32 = .error .unusedField ∧ decodeBytes [0x01#8, 0x00#8] = .error .notOneWord := by
  refine ⟨rfl, rfl, rfl, rfl, rfl, rfl, rfl, rfl⟩

/-- The written form of a command (30_encoding.md R103). -/
theorem test_text : commandText (.div (.exp (-4)) .int) = "DIV X(-4), I" ∧ commandText (.const .hpi) = "CONST HPI" := by
  decide

/-! ### Commands: one step from the reset state (95_test_vectors.md L2) -/

theorem test_add_scale : runWord 0xFC000401#32 0#32 1#32 0#32 = some (0x01000000#32, 0x000#32) := by decide
theorem test_add_wraps : runWord 0x00000A01#32 2047#32 1#32 0#32 = some (0x80000000#32, 0x000#32) := by decide
theorem test_sub_integers : runWord 0x00000A02#32 5#32 7#32 0#32 = some (0xFFE00000#32, 0x000#32) := by decide
theorem test_sub_wraps : runWord 0x00000002#32 0x80000000#32 1#32 0#32 = some (0x7FFFFFFF#32, 0x000#32) := by decide
theorem test_mul_floors : runWord 0x00000003#32 0xFFFFFFFF#32 1#32 0#32 = some (0xFFFFFFFF#32, 0x000#32) := by decide
theorem test_mul_integers : runWord 0x00000A03#32 3#32 4#32 0#32 = some (0x00C00000#32, 0x000#32) := by decide
theorem test_div_negative : runWord 0x00000004#32 0xFFF00000#32 0x00300000#32 0#32 = some (0xFFFAAAAA#32, 0x000#32) := by
  decide
theorem test_div_by_zero : runWord 0x00000004#32 0x00100000#32 0#32 0#32 = some (0#32, 0x101#32) := by decide
theorem test_const_pi : runWord 0x00004008#32 0#32 0#32 0#32 = some (0x003243F7#32, 0x000#32) := by decide
theorem test_fromRaw : runWord 0x00000009#32 0x80000000#32 0#32 0#32 = some (0x80000000#32, 0x000#32) := by decide
theorem test_fromI32_wraps : runWord 0x0000000A#32 0xFFFFF7FF#32 0#32 0#32 = some (0x7FF00000#32, 0x000#32) := by decide
theorem test_fromDecimal_negative : runWord 0x0000000B#32 0xFFFFFFFF#32 3#32 0#32 = some (0xFFFFFBE7#32, 0x000#32) := by
  decide
theorem test_fromDecimal_domain : runWord 0x0000000B#32 7#32 19#32 0#32 = some (0#32, 0x105#32) := by decide
theorem test_toI32_floors : runWord 0x0000000C#32 0xFFE80000#32 0#32 0#32 = some (0xFFFFFFFE#32, 0x000#32) := by decide
theorem test_neg_least : runWord 0x0000000D#32 0x80000000#32 0#32 0#32 = some (0x80000000#32, 0x000#32) := by decide
theorem test_abs_least : runWord 0x0000000E#32 0x80000000#32 0#32 0#32 = some (0x80000000#32, 0x000#32) := by decide
theorem test_abs : runWord 0x0000000E#32 0xFFD00000#32 0#32 0#32 = some (0x00300000#32, 0x000#32) := by decide
theorem test_cmp_signed : runWord 0x0000000F#32 0#32 0x80000000#32 0#32 = some (0x00000001#32, 0x000#32) := by decide
theorem test_cmp_less : runWord 0x0000000F#32 0x80000000#32 0x7FFFFFFF#32 0#32 = some (0xFFFFFFFF#32, 0x000#32) := by decide
theorem test_clamp_wrapped_bound : runWord 0x00000010#32 0x00100000#32 0xFFFFF448#32 3000#32 =
    some (0x44800000#32, 0x000#32) := by decide
theorem test_clamp_range : runWord 0x00000010#32 0x00100000#32 5#32 3#32 = some (0#32, 0x102#32) := by decide
theorem test_sin_half : runWord 0x00000014#32 0x00080000#32 0#32 0#32 = some (0x0007ABBB#32, 0x000#32) := by decide
theorem test_sin_outside : runWord 0x00000014#32 0x7FFFFFFF#32 0#32 0#32 = some (0x7132B590#32, 0x000#32) := by decide
theorem test_sinDimless_quarter : runWord 0x00000015#32 262145#32 0#32 0#32 = some (0x00177503#32, 0x000#32) := by decide
theorem test_sinDimless_outside : runWord 0x00000015#32 2097152#32 0#32 0#32 = some (0x1F63C60E#32, 0x000#32) := by decide
theorem test_inverse_newton : runWord 0x00000018#32 0xFFF40000#32 0#32 0#32 = some (0xFFEAAAAB#32, 0x000#32) := by decide
theorem test_inverse_series : runWord 0x00000018#32 0x00180000#32 0#32 0#32 = some (0x000AAC00#32, 0x000#32) := by decide +kernel
theorem test_invI32_three : runWord 0x00000019#32 0xFFFFFFFD#32 0#32 0#32 = some (0xFFFAAB00#32, 0x000#32) := by decide
theorem test_invI32_least : runWord 0x00000019#32 0x80000000#32 0#32 0#32 = some (0#32, 0x000#32) := by decide

/-! ### The window (95_test_vectors.md, register window and bus; 20_memory.md R63) -/

theorem test_read_info : answerOf (step (arriveFirst (.read 0x18 4) State.reset)) = some (.readOkay 0x114#32) := by decide
theorem test_read_hole : answerOf (step (arriveFirst (.read 0x1C 4) State.reset)) = some (.readError 0#32) := by decide
theorem test_read_byte : answerOf (step (arriveFirst (.read 0x10 1) State.reset)) = some (.readError 0#32) := by decide
theorem test_read_misaligned : answerOf (step (arriveFirst (.read 0x06 4) State.reset)) = some (.readError 0#32) := by decide
theorem test_write_res : answerOf (step (arriveFirst (.write 0x10 4 7#32) State.reset)) = some .writeError := by decide
theorem test_write_halfword : answerOf (step (arriveFirst (.write 0x04 2 0x1234#32) State.reset)) = some .writeError := by
  decide
theorem test_modulo_word : answerOf (step (arriveFirst (commandWrite 5#32) State.reset)) = some .writeOkay ∧
    runWord 5#32 0#32 0#32 0#32 = some (0#32, 0x104#32) := by decide
theorem test_status_write_keeps : resultOf (step (arriveFirst (.write 0x14 4 0x4#32)
    { State.reset with status := 0x104#32 })) = some (0#32, 0x104#32) := by decide
theorem test_status_write_clears : resultOf (step (arriveFirst (.write 0x14 4 0x100#32)
    { State.reset with status := 0x104#32 })) = some (0#32, 0x004#32) := by decide
theorem test_errs_stays_after_ok : resultOf (step (arriveFirst (commandWrite 0x00000008#32)
    { State.reset with status := 0x101#32, res := 9#32 })) = some (0#32, 0x100#32) := by decide
theorem test_byte_lanes : byteLane 0x11223344#32 0 = 0x44#8 ∧ byteLane 0x11223344#32 3 = 0x11#8 := by decide

/-! ### Witnesses: the hypotheses of every obligation that has some can be met, clause by clause -/

theorem test_witness_DecodeOfEncode : (Instr.mul (.exp (-128)) (.exp 127)).WellFormed := by decide
theorem test_witness_EncodeOfDecode : decode 0x80_7F_05_01#32 = .ok (.add (.exp 127) (.exp (-128))) := rfl
theorem test_witness_DecodedWordLiesUnderItsRowOnly : decode 0x00006008#32 = .ok (.const .e) := rfl
theorem test_witness_LegalWords_illegal : ¬ Legal 0x00007008#32 := by
  unfold Legal isArith isPlain; decide
theorem test_witness_LegalWords_legal : Legal 0x00006008#32 := by
  unfold Legal isArith isPlain; decide
theorem test_witness_ModuloIsReserved : opField 0x00000005#32 = 0x05#5 := by decide
theorem test_witness_StepRuns_port :
    ({ State.reset with port := [commandWrite 0x00000014#32] } : State).port = commandWrite 0x00000014#32 :: [] ∧
    decode 0x00000014#32 = .ok .sin := ⟨rfl, rfl⟩
theorem test_witness_StepRuns_table : decodeTableWord 32 0x00000014 = some .sin := by decide
theorem test_witness_IdleStep : State.reset.port = [] := rfl
theorem test_witness_Accepted_first : Accepted 0x00 4 ∧ (0x00 : Nat) ≠ 0x10 ∧ (0x00 : Nat) ≠ 0x18 := by
  unfold Accepted; decide
theorem test_witness_Accepted_last : Accepted 0x18 4 := by unfold Accepted; decide
theorem test_witness_Accepted_hole : ¬ Accepted 0x1C 4 := by unfold Accepted; decide
theorem test_witness_Accepted_width : ¬ Accepted 0x14 2 := by unfold Accepted; decide
theorem test_witness_Accepted_no_write : ¬ (Accepted 0x10 4 ∧ (0x10 : Nat) ≠ 0x10 ∧ (0x10 : Nat) ≠ 0x18) := by
  unfold Accepted; decide
theorem test_witness_ReadAfterWrite : (0x0C : Nat) ∈ [0x00, 0x04, 0x08, 0x0C] ∧
    ({ State.reset with port := [.write 0x0C 4 7#32, .read 0x0C 4] } : State).port =
      .write 0x0C 4 7#32 :: .read 0x0C 4 :: [] := ⟨by decide, rfl⟩
theorem test_witness_StatusReads : StateLegal { State.reset with status := 0x105#32 } := by
  unfold StateLegal StatusLegal; decide
theorem test_witness_ByteLanes : (3 : Nat) < 4 ∧ (7 : Nat) < 8 := by decide
theorem test_witness_WindowAddresses_inside : (0 : Nat) < 32 ∧ (31 : Nat) < 32 := by decide
theorem test_witness_WindowAddresses_above : Config.base + 32 ≤ Config.base + 32 := Nat.le_refl _
theorem test_witness_WindowAddresses_outside : ∃ a, a < Config.base ∨ Config.base + 32 ≤ a := ⟨Config.base + 32, .inr (Nat.le_refl _)⟩
theorem test_witness_EveryStepKeepsStatusLegal : ∃ t, StateLegal State.reset ∧
    step (arriveFirst (commandWrite 5#32) State.reset) = .next t ∧ StateLegal (arriveFirst (commandWrite 5#32) State.reset) :=
  ⟨_, by unfold StateLegal StatusLegal; decide, rfl, by unfold StateLegal StatusLegal; decide⟩
theorem test_witness_ErrsIsSticky_command : ∃ t, step { State.reset with port := [commandWrite 5#32] } = .next t ∧
    statusErrs t.status = true := ⟨_, rfl, by decide⟩
theorem test_witness_ErrsIsSticky_aborted : ∃ t, step { State.reset with port := [.cmdWriteAborted 5#32] } = .next t ∧
    statusErrs t.status = true := ⟨_, rfl, by decide⟩
theorem test_witness_ErrsIsSticky_cleared : ∃ t,
    step { State.reset with status := 0x101#32, port := [.write 0x14 4 0x100#32] } = .next t ∧
    statusErrs 0x101#32 = true ∧ statusErrs t.status = false := ⟨_, rfl, by decide, by decide⟩
theorem test_witness_ErrsIsSticky_reset : ∃ t u,
    step { State.reset with status := 0x101#32, port := [.reset] } = .next t ∧
    step { State.reset with status := 0x101#32, port := [.resetDuringCommand 3#32] } = .next u := ⟨_, _, rfl, rfl⟩
theorem test_witness_CommandsChange_ok : ∃ t, exec .neg (withOperands 1#32 0#32 0#32) = .next t ∧ statusCode t.status = 0#4 :=
  ⟨_, rfl, by decide⟩
theorem test_witness_CommandsChange_error : ∃ t, exec (.div .can .can) State.reset = .next t ∧ statusCode t.status ≠ 0#4 :=
  ⟨_, rfl, by decide⟩
theorem test_witness_EachCommandRaises : ∃ t, exec .clamp (withOperands 0#32 1#32 0#32) = .next t := ⟨_, rfl⟩
theorem test_witness_CommandsArePure : ∃ t t', exec .abs (withOperands 5#32 6#32 7#32) = .next t ∧
    exec .abs { withOperands 5#32 6#32 7#32 with res := 1#32, status := 0x101#32 } = .next t' ∧
    statusCode t.status = 0#4 := ⟨_, _, rfl, rfl, by decide⟩
theorem test_witness_RepeatedCommand : ∃ t u,
    step { withOperands 0x00080000#32 0#32 0#32 with port := [commandWrite 0xD#32, commandWrite 0xD#32] } = .next t ∧
    step t = .next u := ⟨_, _, rfl, rfl⟩
theorem test_witness_OnlyCommandsAndReset : ∃ t,
    step { withOperands 5#32 0#32 0#32 with port := [commandWrite 0x9#32] } = .next t ∧ t.res ≠ 0#32 := ⟨_, rfl, by decide⟩
theorem test_witness_OnlyCommandsAndReset_reset : ∃ t,
    step { State.reset with res := 1#32, port := [.reset] } = .next t ∧ t.res ≠ 1#32 := ⟨_, rfl, by decide⟩

/-- The least value that fits, shifted left by 1, left by the width, not at all, right by 1 less, and right by the width. -/
theorem test_witness_DirectionalShift : (1 : Nat) ≤ 32 ∧ -(2 : Int) ^ (32 - 1) ≤ -2147483648 ∧ (-2147483648 : Int) < 2 ^ (32 - 1) ∧
    (-1 : Int) < 0 ∧ -(-32 : Int) ≥ (32 : Nat) ∧ (0 : Int) ≤ 0 ∧ (32 : Int) ≥ (32 : Nat) := by decide
theorem test_witness_Div : (withOperands 0#32 0x80000000#32 0#32).opb ≠ 0#32 := by decide
theorem test_witness_DivisionByZero : (withOperands 1#32 0#32 0#32).opb = 0#32 ∧
    ∃ t, exec (.div .int .can) (withOperands 1#32 0#32 0#32) = .next t ∧ statusCode t.status = 1#4 := ⟨rfl, _, rfl, by decide⟩
theorem test_witness_DivisionByZero_reciprocals : (withOperands 0#32 1#32 0#32).opa = 0#32 := rfl
theorem test_witness_CanonicalLaws_integers :
    -2048 ≤ (withOperands 0xFFFFF800#32 0#32 0#32).opa.toInt ∧ (withOperands 0x7FF#32 0#32 0#32).opa.toInt ≤ 2047 ∧
    (withOperands 0xFFFFF800#32 0#32 0#32).opa.toInt ≤ 2047 ∧ -2048 ≤ (withOperands 0x7FF#32 0#32 0#32).opa.toInt := by decide
theorem test_witness_CanonicalLaws_zero_and_one : (withOperands 5#32 0#32 0#32).opb = 0#32 ∧
    (withOperands 5#32 0x00100000#32 0#32).opb = 0x00100000#32 := ⟨rfl, rfl⟩
theorem test_witness_FromDecimalInRange : 0 ≤ (withOperands 0#32 0#32 0#32).opb.toInt ∧
    (withOperands 0#32 0#32 0#32).opb.toInt ≤ 18 ∧ 0 ≤ (withOperands 0#32 18#32 0#32).opb.toInt ∧
    (withOperands 0#32 18#32 0#32).opb.toInt ≤ 18 := by decide
theorem test_witness_DomainError : (withOperands 0#32 0xFFFFFFFF#32 0#32).opb.toInt < 0 ∧
    18 < (withOperands 0#32 19#32 0#32).opb.toInt := by decide
theorem test_witness_DomainError_only : ∃ t, exec .fromDecimal (withOperands 0#32 19#32 0#32) = .next t ∧
    statusCode t.status = 5#4 := ⟨_, rfl, by decide⟩
theorem test_witness_Clamp : (withOperands 0#32 3#32 3#32).opb.toInt ≤ (withOperands 0#32 3#32 3#32).opc.toInt := by decide
theorem test_witness_Clamp_exact : (withOperands 0#32 0xFFFFF800#32 0x7FF#32).opb.toInt ≤
      (withOperands 0#32 0xFFFFF800#32 0x7FF#32).opc.toInt ∧
    -2048 ≤ (withOperands 0#32 0xFFFFF800#32 0x7FF#32).opb.toInt ∧
    (withOperands 0#32 0xFFFFF800#32 0x7FF#32).opc.toInt ≤ 2047 := by decide
theorem test_witness_InvalidRange : (withOperands 0#32 4#32 3#32).opc.toInt < (withOperands 0#32 4#32 3#32).opb.toInt ∧
    (withOperands 0#32 3#32 3#32).opb = (withOperands 0#32 3#32 3#32).opc := by decide
theorem test_witness_InvalidRange_only : ∃ t, exec .clamp (withOperands 0#32 4#32 3#32) = .next t ∧
    statusCode t.status = 2#4 := ⟨_, rfl, by decide⟩
theorem test_witness_SinSymmetries : ∃ t u, exec .sin (withOperands 3294199#32 0#32 0#32) = .next t ∧
    0 ≤ (3294199#32 : Word).toInt ∧ (3294199#32 : Word).toInt ≤ 3294199 ∧
    exec .sin (withOperands 6588398#32 0#32 0#32) = .next u ∧ 0 ≤ (6588398#32 : Word).toInt ∧
    (6588398#32 : Word).toInt ≤ 6588398 := ⟨_, _, rfl, by decide, by decide, rfl, by decide, by decide⟩
theorem test_witness_InverseOfZeroAndOne : (withOperands 0#32 0#32 0#32).opa = 0#32 ∧
    (withOperands 0x00100000#32 0#32 0#32).opa = 0x00100000#32 ∧
    (withOperands 0xFFF00000#32 0#32 0#32).opa = 0xFFF00000#32 := ⟨rfl, rfl, rfl⟩
theorem test_witness_InverseSaturates : (withOperands 1#32 0#32 0#32).opa = 1#32 ∧
    (withOperands 0xFFFFFFFF#32 0#32 0#32).opa = 0xFFFFFFFF#32 ∧
    (withOperands 0x80000000#32 0#32 0#32).opa = 0x80000000#32 := ⟨rfl, rfl, rfl⟩
theorem test_witness_InverseSaturates_iff : (1#32 : Word) ≠ 0#32 := by decide
theorem test_witness_InverseAboveOne : 1048577 = (0x00100001#32 : Word).toInt.natAbs ∧
    2147483647 = (0x80000001#32 : Word).toInt.natAbs ∧ (1048576 : Nat) < 1048577 ∧ (2147483647 : Nat) < 2147483648 := by decide
/-- Raw 786432 (0.75) first meets the threshold between iterates 3 and 4; raw 256 never does. -/
theorem test_witness_InverseBelowOne_meets : (786432 : Nat) = (0x000C0000#32 : Word).toInt.natAbs ∧ (2 : Nat) ≤ 786432 ∧
    (786432 : Nat) < 1048576 ∧ newtonMeets 786432 (seedValue Config.build.nrSeed 786432) 3 ∧
    ∀ j, j < 3 → ¬ newtonMeets 786432 (seedValue Config.build.nrSeed 786432) j := by
  unfold newtonMeets; decide
theorem test_witness_InverseBelowOne_never : (256 : Nat) = (0x00000100#32 : Word).toInt.natAbs ∧
    ∀ k, k < 8 → ¬ newtonMeets 256 (seedValue Config.build.nrSeed 256) k := by
  unfold newtonMeets; decide
theorem test_witness_ConvergenceFailure : (512 : Nat) = (0x00000200#32 : Word).toInt.natAbs ∧
    (∀ k, k < 8 → ¬ newtonMeets 512 (seedValue Config.build.nrSeed 512) k) ∧
    ∃ t, exec .inverse (withOperands 512#32 0#32 0#32) = .next t ∧ statusCode t.status = 3#4 := by
  refine ⟨by decide, by unfold newtonMeets; decide, _, rfl, by decide⟩
theorem test_witness_SeedRules : (2 : Int) ≤ 2 ∧ (1048575 : Int) < 1048576 ∧
    seedValue .literal 524287 = 1048576 ∧ seedValue .literal 524288 = 2097152 ∧
    seedValue .halfBracket 524288 = 1048576 ∧ seedValue .above 524288 = 2097152 := by decide
theorem test_witness_InverseOfTinyMagnitudes : 2 ≤ (withOperands 0xFFFFFFFE#32 0#32 0#32).opa.toInt.natAbs ∧
    (withOperands 255#32 0#32 0#32).opa.toInt.natAbs ≤ 255 ∧ 256 ≤ (withOperands 256#32 0#32 0#32).opa.toInt.natAbs ∧
    (withOperands 0xFFFFFE00#32 0#32 0#32).opa.toInt.natAbs ≤ 512 := by decide
theorem test_witness_InverseIsOdd : ∃ t, (withOperands 0x00180000#32 0#32 0#32).opa ≠ 0x80000000#32 ∧
    exec .inverse (withOperands 0x00180000#32 0#32 0#32) = .next t ∧ statusCode t.status = 0#4 := ⟨_, by decide, rfl, by decide⟩
theorem test_witness_InvI32Series : 0 = (0#32 : Word).toInt.natAbs ∧ 1 = (0xFFFFFFFF#32 : Word).toInt.natAbs ∧
    2 = (2#32 : Word).toInt.natAbs ∧ 2147483648 = (0x80000000#32 : Word).toInt.natAbs ∧ (2 : Nat) ≤ 2147483648 := by decide
theorem test_witness_InvI32Agrees : 1 ≤ (withOperands 1#32 0#32 0#32).opa.toInt.natAbs ∧
    (withOperands 0xFFFFF801#32 0#32 0#32).opa.toInt.natAbs ≤ 2047 := by decide

end Sys2Proof.Tests
end

section
/-! PROOFS, the family of spec/10_state.md: ERRS (R39) and INFO (R40). First the rules for one event at the port and for the
ERRS bit, then the two statements. -/

namespace Sys2Proof.Proofs

open Sys2Proof.Machine
open Sys2Proof.Laws

/-! ### One event at the port -/

/-- An event that arrives before all others is the one that the next step serves. -/
theorem step_arriveFirst (e : PortEvent) (s : State) : step (arriveFirst e s) = serve e s :=
  step_serve (s := arriveFirst e s) rfl

/-- A full-width read at a register's offset is accepted and answers the register's value (20_memory.md R66). -/
theorem serve_read_offset (r : Reg) (s : State) :
    serve (.read r.offset 4) s = .next (s.setResponse (some (.readOkay (readReg r s)))) := by
  simp only [serve, serveRead, readTarget_offset]

/-- A full-width write at a writable register's offset reaches that register. -/
theorem writeTarget_offset {r : Reg} (hr : r.writable = true) : writeTarget r.offset 4 = some r := by
  simp [writeTarget, hr]

/-- A register that is not writable is no target of a write (20_memory.md R65). -/
theorem writeTarget_offset_of_not_writable {r : Reg} (hr : r.writable = false) : writeTarget r.offset 4 = none := by
  simp [writeTarget, hr]

/-- A command word reaches the FXU by a CMD write, aborted or not, and either way it ends its command with an outcome
(70_reset_and_hazards.md R325). -/
theorem serve_command {e : PortEvent} {v : Word} {s t : State} (he : e = commandWrite v ∨ e = .cmdWriteAborted v)
    (h : serve e s = .next t) : ∃ o u, t = endCommand o u ∧ u.status = s.status := by
  obtain rfl | rfl := he
  · rw [commandWrite, serve, serveWrite_command v s (writeTarget_offset rfl), runCommand_eq] at h
    cases h
    exact ⟨_, _, rfl, rfl⟩
  · rw [serve, runCommand_eq] at h
    cases h
    exact ⟨_, _, rfl, rfl⟩

/-- A full-width write at STATUS's offset is a write of STATUS. -/
theorem serve_write_status (v : Word) (s : State) :
    serve (.write 0x14 4 v) s = .next (writeReg .status v (s.setResponse (some .writeOkay))) :=
  serveWrite_accepted v s (writeTarget_offset (r := .status) rfl) (by decide)

/-! ### The ERRS bit -/

theorem statusErrs_reset : statusErrs State.reset.status = false := by decide

theorem errorNumber_ne_zero (c : ErrorCode) : c.number ≠ 0#4 := by
  cases c <;> decide

/-- The end of a command sets ERRS when the new CODE is not 0 and never clears it. -/
theorem statusErrs_endCommand (o : Result) (s : State) :
    statusErrs (endCommand o s).status =
      (statusErrs s.status || decide (statusCode (endCommand o s).status ≠ 0#4)) := by
  cases o with
  | ok r => simp
  | err c => simp [errorNumber_ne_zero c]

/-- A host write of STATUS clears ERRS when bit 8 of the data is 1, and only then. -/
@[simp] theorem statusErrs_statusAfterHostWrite (st v : Word) :
    statusErrs (statusAfterHostWrite st v) = (statusErrs st && !v.getLsbD 8) := by
  unfold statusAfterHostWrite
  cases v.getLsbD 8 <;> simp

theorem writeReg_status_of_ne {r : Reg} (hr : r ≠ .status) (v : Word) (s : State) :
    (writeReg r v s).status = s.status := by
  cases r with
  | status => exact absurd rfl hr
  | _ => rfl

/-- The only events that clear ERRS: the two resets and a STATUS write with bit 8 set. -/
theorem serve_clears_errs {e : PortEvent} {s t : State} (h : serve e s = .next t) (hs : statusErrs s.status = true)
    (ht : statusErrs t.status = false) :
    e = .reset ∨ (∃ v, e = .resetDuringCommand v) ∨ ∃ v, e = .write 0x14 4 v ∧ v.getLsbD 8 = true := by
  obtain ⟨a, rfl, -⟩ | ⟨off, n, v, r, rfl, hw, -, rfl⟩ | ⟨v, a, -, rfl⟩ | ⟨hreset, -⟩ := serve_cases h
  · -- An event that only answers keeps STATUS.
    simp [hs] at ht
  · by_cases hr : r = .status
    · subst hr
      obtain ⟨rfl, rfl, -⟩ := writeTarget_eq_some hw
      exact .inr (.inr ⟨v, rfl, by simpa [writeReg, hs] using ht⟩)
    · rw [writeReg_status_of_ne hr] at ht
      simp [hs] at ht
  · -- A command keeps a set ERRS whatever its outcome.
    rw [statusErrs_endCommand] at ht
    simp [hs] at ht
  · exact hreset.imp_right .inl

/-! ### The statements -/

/-- Settles O26: the command clause from how a command ends, the clearing clause from the cases of serving an event, the
resets and the STATUS write from their own equations. -/
theorem errsIsSticky : Obligations.ErrsIsSticky := by
  unfold Obligations.ErrsIsSticky
  intro s t e rest hport hstep
  have hserve : serve e (s.setPort rest) = .next t := step_serve hport ▸ hstep
  refine ⟨?command, serve_clears_errs (s := s.setPort rest) hserve, ?reset, ?resetDuringCommand, ?statusWrite⟩
  case command =>
    rintro ⟨v, he⟩
    obtain ⟨o, u, rfl, hu⟩ := serve_command he hserve
    rw [statusErrs_endCommand, hu, State.setPort_status]
  case reset =>
    rintro rfl
    cases hserve
    exact statusErrs_reset
  case resetDuringCommand =>
    rintro v rfl
    cases hserve
    exact statusErrs_reset
  case statusWrite =>
    rintro v rfl
    rw [serve_write_status] at hserve
    cases hserve
    simp [writeReg]

/-- Settles O17: INFO's read is accepted and its value is no field of the state; its write has no target. -/
theorem infoIsConstant : Obligations.InfoIsConstant := by
  unfold Obligations.InfoIsConstant
  refine ⟨fun s => ?read, by decide, by decide, by decide, fun s v => ?write⟩
  case read =>
    rw [step_arriveFirst]
    exact serve_read_offset .info s
  case write =>
    rw [step_arriveFirst]
    exact serveWrite_refused v s (writeTarget_offset_of_not_writable (r := .info) rfl)

end Sys2Proof.Proofs
end

section
/-! PROOFS, the family of spec/20_memory.md: which transactions are accepted (R62) and which are refused (R65). First the
conditions of R62 as the two targets of the register window, then the answers of a step, then the two statements. -/

namespace Sys2Proof.Proofs

open Sys2Proof.Machine
open Sys2Proof.Laws
open Sys2Proof.Safety

/-! ### R62's conditions and the targets of the register window -/

/-- The accepted accesses are the full-width ones at a register's offset. -/
theorem accepted_iff_offset (off n : Nat) : Accepted off n ↔ n = 4 ∧ ∃ r : Reg, off = r.offset := by
  constructor
  · rintro ⟨hn, -, hoff⟩
    refine ⟨hn, ?_⟩
    simp only [List.mem_cons, List.not_mem_nil, or_false] at hoff
    obtain h | h | h | h | h | h | h := hoff
    exacts [⟨.cmd, h⟩, ⟨.opa, h⟩, ⟨.opb, h⟩, ⟨.opc, h⟩, ⟨.res, h⟩, ⟨.status, h⟩, ⟨.info, h⟩]
  · rintro ⟨rfl, r, rfl⟩
    refine ⟨rfl, ?_, ?_⟩ <;> cases r <;> decide

/-- A read has a target exactly when R62 accepts it. -/
theorem accepted_iff_readTarget (off n : Nat) : Accepted off n ↔ ∃ r, readTarget off n = some r := by
  rw [accepted_iff_offset]
  constructor
  · rintro ⟨rfl, r, rfl⟩
    exact ⟨r, readTarget_offset r⟩
  · rintro ⟨r, h⟩
    obtain ⟨hn, hoff⟩ := readTarget_eq_some h
    exact ⟨hn, r, hoff⟩

/-- The registers that take no write are those at 0x10 and 0x18 (20_memory.md R65). -/
theorem writable_iff_offset (r : Reg) : r.writable = true ↔ r.offset ≠ 0x10 ∧ r.offset ≠ 0x18 := by
  cases r <;> decide

/-- A write has a target exactly when R62 accepts it. -/
theorem writeAccepted_iff_writeTarget (off n : Nat) :
    (Accepted off n ∧ off ≠ 0x10 ∧ off ≠ 0x18) ↔ ∃ r, writeTarget off n = some r := by
  rw [accepted_iff_offset]
  constructor
  · rintro ⟨⟨rfl, r, rfl⟩, hoff⟩
    exact ⟨r, writeTarget_offset ((writable_iff_offset r).mpr hoff)⟩
  · rintro ⟨r, h⟩
    obtain ⟨hn, rfl, hr⟩ := writeTarget_eq_some h
    exact ⟨⟨hn, r, rfl⟩, (writable_iff_offset r).mp hr⟩

/-- Offset 0x1C holds no register (20_memory.md R65). -/
theorem not_accepted_hole (n : Nat) : ¬ Accepted 0x1C n := by
  simp [Accepted]

/-! ### The answers of a step -/

theorem step_read_accepted {off n : Nat} {r : Reg} (s : State) (h : readTarget off n = some r) :
    step (arriveFirst (.read off n) s) = .next (s.setResponse (some (.readOkay (readReg r s)))) := by
  obtain ⟨rfl, rfl⟩ := readTarget_eq_some h
  rw [step_arriveFirst, serve_read_offset]

theorem step_read_refused {off n : Nat} (s : State) (h : ¬ Accepted off n) :
    step (arriveFirst (.read off n) s) = .next (s.setResponse (some (.readError 0#32))) := by
  have hnone : readTarget off n = none := by
    rwa [accepted_iff_readTarget, ← Option.ne_none_iff_exists', not_not] at h
  simp only [step_arriveFirst, serve, serveRead, hnone]

/-- No register's own write changes the answer. -/
@[simp] theorem writeReg_response (r : Reg) (v : Word) (s : State) : (writeReg r v s).response = s.response := by
  cases r <;> rfl

/-- Every accepted write is answered OKAY, a CMD write after its command (20_memory.md R68). -/
theorem step_write_accepted {off n : Nat} {r : Reg} (v : Word) (s : State) (h : writeTarget off n = some r) :
    ∃ t, step (arriveFirst (.write off n v) s) = .next t ∧ t.response = some .writeOkay := by
  rw [step_arriveFirst, serve]
  by_cases hr : r = .cmd
  · subst hr
    rw [serveWrite_command v s h, runCommand_eq]
    obtain ⟨-, -, -, -, -, hresponse⟩ :=
      endCommand_frame (wordOutcome v s.opa s.opb s.opc) ((s.setResponse (some .writeOkay)).setCmd v)
    exact ⟨_, rfl, hresponse⟩
  · exact ⟨_, serveWrite_accepted v s h hr, writeReg_response r v _⟩

theorem step_write_refused {off n : Nat} (v : Word) (s : State) (h : ¬ (Accepted off n ∧ off ≠ 0x10 ∧ off ≠ 0x18)) :
    step (arriveFirst (.write off n v) s) = .next (s.setResponse (some .writeError)) := by
  have hnone : writeTarget off n = none := by
    rwa [writeAccepted_iff_writeTarget, ← Option.ne_none_iff_exists', not_not] at h
  rw [step_arriveFirst, serve, serveWrite_refused v s hnone]

/-! ### The statements -/

/-- Settles O11: R62's conditions are the existence of a target, and the target decides the answer. -/
theorem acceptedAndRefusedTransactions : Obligations.AcceptedAndRefusedTransactions := by
  unfold Obligations.AcceptedAndRefusedTransactions
  intro s off n v
  refine ⟨fun h => ?readAccepted, step_read_refused s, fun h => ?writeAccepted, step_write_refused v s⟩
  case readAccepted =>
    obtain ⟨r, hr⟩ := (accepted_iff_readTarget off n).mp h
    exact ⟨readReg r s, step_read_accepted s hr⟩
  case writeAccepted =>
    obtain ⟨r, hr⟩ := (writeAccepted_iff_writeTarget off n).mp h
    exact step_write_accepted v s hr

/-- Settles O12: none of these accesses meets R62's conditions, at any width. -/
theorem readOnlyRegistersAndHoleRefuse : Obligations.ReadOnlyRegistersAndHoleRefuse := by
  unfold Obligations.ReadOnlyRegistersAndHoleRefuse
  intro s n v
  refine ⟨step_write_refused v s ?res, step_write_refused v s ?info, step_write_refused v s ?hole,
    step_read_refused s (not_accepted_hole n)⟩
  case res => exact fun ⟨_, hres, _⟩ => hres rfl
  case info => exact fun ⟨_, _, hinfo⟩ => hinfo rfl
  case hole => exact fun ⟨haccepted, _⟩ => not_accepted_hole n haccepted

end Sys2Proof.Proofs
end

section
/-! PROOFS, the family of spec/30_encoding.md: which words are commands (R99), how an illegal one ends
(60_exceptions.md R281), and the words of the pseudo-commands (R104). First what each part of the decoder accepts, then the
class of every opcode, then the step that a CMD write takes, then the two statements. -/

namespace Sys2Proof.Proofs

open Sys2Proof.Machine
open Sys2Proof.Laws
open Sys2Proof.Safety

/-! ### What each part of the decoder accepts -/

/-- A kind code with its scale field (R99 item 3). -/
theorem decodeKind_accepts_iff (k : BitVec 2) (f : BitVec 8) :
    (∃ kind, decodeKind k f = .ok kind) ↔ k ≠ 0b11#2 ∧ (k ≠ 0b01#2 → f = 0#8) := by
  unfold decodeKind
  split_ifs with hexp hreserved hscale hcan <;> simp_all

/-- A selector of CONST (R96, R99 item 4). -/
theorem decodeSelector_accepts_iff (k : BitVec 4) : (∃ c, decodeSelector k = .ok c) ↔ k.toNat ≤ 6 := by
  unfold decodeSelector
  split <;> simp_all
  -- Left over: the last arm, where the code `k` is none of 0 to 6.
  omega

/-- The fields of ADD, SUB, MUL and DIV (R99 item 3). -/
theorem decodeArith_accepts_iff (w : Word) (mk : OperandKind → OperandKind → Instr) :
    (∃ i, decodeArith w mk = .ok i) ↔
      kaField w ≠ 0b11#2 ∧ kbField w ≠ 0b11#2 ∧
      (kaField w ≠ 0b01#2 → faField w = 0#8) ∧ (kbField w ≠ 0b01#2 → fbField w = 0#8) ∧ kselField w = 0#4 := by
  have hsplit : (∃ i, decodeArith w mk = .ok i) ↔
      kselField w = 0#4 ∧ (∃ ka, decodeKind (kaField w) (faField w) = .ok ka) ∧
        ∃ kb, decodeKind (kbField w) (fbField w) = .ok kb := by
    unfold decodeArith
    split_ifs with hksel
    · simp [hksel]
    · cases decodeKind (kaField w) (faField w) <;> cases decodeKind (kbField w) (fbField w) <;> simp_all
  rw [hsplit, decodeKind_accepts_iff, decodeKind_accepts_iff]
  tauto

/-- The fields of CONST (R99 item 4). -/
theorem decodeConst_accepts_iff (w : Word) :
    (∃ i, decodeConst w = .ok i) ↔
      (kselField w).toNat ≤ 6 ∧ kaField w = 0#2 ∧ kbField w = 0#2 ∧ faField w = 0#8 ∧ fbField w = 0#8 := by
  rw [← decodeSelector_accepts_iff]
  unfold decodeConst
  split_ifs with hunused
  · simp
    tauto
  · cases decodeSelector (kselField w) <;> simp_all

/-- The fields of every other command (R99 item 5). -/
theorem decodePlain_accepts_iff (w : Word) (i : Instr) : (∃ j, decodePlain w i = .ok j) ↔ upperField w = 0#24 := by
  unfold decodePlain
  split_ifs with hunused <;> simp_all

/-! ### The class of an opcode (R100) -/

/-- The opcodes that R101 lists as reserved, the modulo operator's 0x05 among them (41_scaled_arith.md R142). -/
def isReserved (v : Word) : Prop :=
  opField v ∈ [0x00#5, 0x05#5, 0x06#5, 0x07#5, 0x11#5, 0x12#5, 0x13#5, 0x16#5, 0x17#5,
    0x1A#5, 0x1B#5, 0x1C#5, 0x1D#5, 0x1E#5, 0x1F#5]

/-- Every opcode is in one of the four classes. -/
theorem opcode_class (v : Word) : isArith v ∨ opField v = 0x08#5 ∨ isPlain v ∨ isReserved v := by
  unfold isArith isPlain isReserved
  generalize opField v = op
  revert op
  decide

/-- An opcode with kinds is in no other class. -/
theorem not_other_of_isArith {v : Word} (h : isArith v) : opField v ≠ 0x08#5 ∧ ¬ isPlain v := by
  revert h
  unfold isArith isPlain
  generalize opField v = op
  revert op
  decide

/-- A plain opcode is in no other class. -/
theorem not_other_of_isPlain {v : Word} (h : isPlain v) : ¬ isArith v ∧ opField v ≠ 0x08#5 :=
  ⟨fun ha => (not_other_of_isArith ha).2 h, fun hc => by simp [isPlain, hc] at h⟩

/-- A reserved opcode is none of the 17. -/
theorem not_command_of_isReserved {v : Word} (h : isReserved v) : ¬ (isArith v ∨ opField v = 0x08#5 ∨ isPlain v) := by
  revert h
  unfold isArith isPlain isReserved
  generalize opField v = op
  revert op
  decide

/-! ### The decoder by the class of the opcode -/

/-- A nonzero RSV field is refused whatever the rest (R99 item 1). -/
theorem decode_of_rsv {v : Word} (h : rsvField v ≠ 0#3) : decode v = .error .reservedBits := by
  simp [decode, h]

theorem decode_of_isArith {v : Word} (hrsv : rsvField v = 0#3) (h : isArith v) : ∃ mk, decode v = decodeArith v mk := by
  obtain h | h | h | h := h
  · exact ⟨.add, by simp [decode, hrsv, h]⟩
  · exact ⟨.sub, by simp [decode, hrsv, h]⟩
  · exact ⟨.mul, by simp [decode, hrsv, h]⟩
  · exact ⟨.div, by simp [decode, hrsv, h]⟩

theorem decode_of_const {v : Word} (hrsv : rsvField v = 0#3) (h : opField v = 0x08#5) : decode v = decodeConst v := by
  simp [decode, hrsv, h]

theorem decode_of_isPlain {v : Word} (hrsv : rsvField v = 0#3) (h : isPlain v) : ∃ i, decode v = decodePlain v i := by
  simp only [isPlain, List.mem_cons, List.not_mem_nil, or_false] at h
  obtain h | h | h | h | h | h | h | h | h | h | h | h := h <;> exact ⟨_, by simp [decode, hrsv, h]; rfl⟩

theorem decode_of_isReserved {v : Word} (h : isReserved v) : ∃ e, decode v = .error e := by
  by_cases hrsv : rsvField v = 0#3
  · simp only [isReserved, List.mem_cons, List.not_mem_nil, or_false] at h
    obtain h | h | h | h | h | h | h | h | h | h | h | h | h | h | h := h <;>
      exact ⟨_, by simp [decode, hrsv, h]; rfl⟩
  · exact ⟨_, decode_of_rsv hrsv⟩

/-- The decoder accepts exactly the legal words: class by class, R99's item for the class is what its part accepts. -/
theorem decode_accepts_iff_legal (v : Word) : (∃ i, decode v = .ok i) ↔ Legal v := by
  by_cases hrsv : rsvField v = 0#3
  · obtain ha | hc | hp | hr := opcode_class v
    · obtain ⟨mk, hdecode⟩ := decode_of_isArith hrsv ha
      rw [hdecode, decodeArith_accepts_iff]
      simp [Legal, hrsv, ha, not_other_of_isArith ha]
    · have ha : ¬ isArith v := fun ha => (not_other_of_isArith ha).1 hc
      have hp : ¬ isPlain v := fun hp => (not_other_of_isPlain hp).2 hc
      rw [decode_of_const hrsv hc, decodeConst_accepts_iff]
      simp [Legal, hrsv, hc, ha, hp]
    · obtain ⟨i, hdecode⟩ := decode_of_isPlain hrsv hp
      rw [hdecode, decodePlain_accepts_iff]
      simp [Legal, hrsv, hp, not_other_of_isPlain hp]
    · obtain ⟨e, hdecode⟩ := decode_of_isReserved hr
      simp [Legal, hdecode, not_command_of_isReserved hr]
  · simp [Legal, decode_of_rsv hrsv, hrsv]

/-! ### The step of a CMD write -/

/-- A CMD write that arrives ends its command within the step and is answered OKAY (R108, 20_memory.md R68). -/
theorem step_commandWrite (v : Word) (s : State) :
    step (arriveFirst (commandWrite v) s) =
      .next (endCommand (wordOutcome v s.opa s.opb s.opc) ((s.setResponse (some .writeOkay)).setCmd v)) := by
  rw [step_arriveFirst, commandWrite, serve, serveWrite_command v s (writeTarget_offset rfl), runCommand_eq]
  rfl

/-- A word that is no command ends with ILLEGAL_COMMAND whatever the operands (60_exceptions.md R281). -/
theorem wordOutcome_of_illegal {v : Word} (h : ¬ Legal v) (a b c : Word) :
    wordOutcome v a b c = .err .illegalCommand := by
  unfold wordOutcome
  cases hdecode : decode v with
  | ok i => exact absurd ((decode_accepts_iff_legal v).mp ⟨i, hdecode⟩) h
  | error e => rfl

/-! ### The statements -/

/-- Settles O4: the decoder accepts the legal words class by class, and a refused word's outcome is ILLEGAL_COMMAND. -/
theorem legalWordsAndIllegalCommand : Obligations.LegalWordsAndIllegalCommand := by
  unfold Obligations.LegalWordsAndIllegalCommand
  intro v
  refine ⟨decode_accepts_iff_legal v, fun h s => ⟨?step, statusCode_statusAfterError s.status .illegalCommand⟩⟩
  case step =>
    rw [step_commandWrite, wordOutcome_of_illegal h]
    rfl

/-- Settles O7: the expansions are the table's by definition, and each word is the encoder's for its expansion. -/
theorem pseudoCommandWords : Obligations.PseudoCommandWords := by
  unfold Obligations.PseudoCommandWords
  refine ⟨?addi, ?subi, ?muli, ?divi, ?recip, rfl, rfl, rfl, rfl, rfl⟩ <;> decide

end Sys2Proof.Proofs
end

section
/-! PROOFS, the family of spec/41_scaled_arith.md: the directional shift (R130) and the reserved modulo opcode (R142). First
the values of `N` bits and what wrapping, a left shift and a floor do to them, then the two directions of the shift, then the
two statements. -/

namespace Sys2Proof.Proofs

open Sys2Proof.Machine
open Sys2Proof.Laws
open Sys2Proof.Safety

/-! ### Signed values of N bits -/

/-- A value is a signed `N`-bit number: `Fits32` at every width. -/
def FitsIn (N : Nat) (v : Int) : Prop := -(2 : Int) ^ (N - 1) ≤ v ∧ v < (2 : Int) ^ (N - 1)

theorem fitsIn_32_iff (v : Int) : FitsIn 32 v ↔ Fits32 v := by
  unfold FitsIn Fits32
  omega

/-- Wrapping gives a value of the width. -/
theorem fitsIn_wrap {N : Nat} (hN : 1 ≤ N) (v : Int) : FitsIn N (wrap N v) := by
  obtain ⟨n, rfl⟩ : ∃ n, N = n + 1 := ⟨N - 1, by omega⟩
  have hpow : (2 : Nat) ^ (n + 1) = 2 * 2 ^ n := by ring
  have hpos : 0 < (2 : Nat) ^ (n + 1) := by positivity
  have hlow := Int.le_bmod (x := v) hpos
  have hhigh := Int.bmod_lt (x := v) hpos
  rw [hpow] at hlow hhigh
  unfold FitsIn wrap
  rw [hpow, Nat.add_sub_cancel]
  push_cast at hlow hhigh ⊢
  constructor <;> omega

/-- A left shift by the width or more loses every bit. -/
theorem wrap_mul_pow_of_le {N k : Nat} (h : N ≤ k) (v : Int) : wrap N (v * 2 ^ k) = 0 := by
  apply Int.bmod_eq_zero_of_dvd
  push_cast
  exact (pow_dvd_pow 2 h).mul_left v

/-- The floor keeps the width. -/
theorem fitsIn_ediv_pow {N : Nat} {v : Int} (h : FitsIn N v) (k : Nat) : FitsIn N (v / 2 ^ k) := by
  obtain ⟨hlow, hhigh⟩ := h
  have hbound : (0 : Int) < 2 ^ (N - 1) := by positivity
  have hone : (1 : Int) ≤ 2 ^ k := one_le_pow₀ (by decide)
  constructor
  · exact Int.le_ediv_of_mul_le (by positivity) (by nlinarith)
  · exact Int.ediv_lt_of_lt_mul (by positivity) (by nlinarith)

/-- The floor by the width or more leaves the sign fill. -/
theorem ediv_pow_of_le {N k : Nat} {v : Int} (h : FitsIn N v) (hk : N ≤ k) :
    v / 2 ^ k = if v < 0 then -1 else 0 := by
  obtain ⟨hlow, hhigh⟩ := h
  have hbound : (2 : Int) ^ (N - 1) ≤ 2 ^ k := pow_le_pow_right₀ (by decide) (by omega)
  split_ifs with hsign
  · exact Int.ediv_eq_neg_one_of_neg_of_le hsign (by omega)
  · exact Int.ediv_eq_zero_of_lt (by omega) (by omega)

/-! ### The two directions of the shift (R130) -/

theorem pow2_eq (k : Nat) : pow2 k = 2 ^ k := by
  simp [pow2]

/-- Every left shift is the wrapped product, the limit included. -/
theorem shift_of_neg (N : Nat) (v : Int) {s : Int} (hs : s < 0) :
    shift N v s = wrap N (v * 2 ^ (-s).toNat) := by
  rw [shift, if_pos hs, pow2_eq]
  split_ifs with hwide
  · exact (wrap_mul_pow_of_le (by omega) v).symm
  · rfl

/-- Every right shift of a value that fits is the floor, the limit included. -/
theorem shift_of_nonneg {N : Nat} {v s : Int} (hv : FitsIn N v) (hs : 0 ≤ s) : shift N v s = v / 2 ^ s.toNat := by
  rw [shift, if_neg (by omega), asr, pow2_eq]
  split_ifs with hwide hsign
  · rw [ediv_pow_of_le hv (by omega), if_pos hsign]
  · rw [ediv_pow_of_le hv (by omega), if_neg hsign]
  · rfl

/-- The shift "returns an `N`-bit signed value" (R130). -/
theorem fitsIn_shift {N : Nat} {v : Int} (hN : 1 ≤ N) (hv : FitsIn N v) (s : Int) : FitsIn N (shift N v s) := by
  obtain hs | hs := lt_or_ge s 0
  · rw [shift_of_neg N v hs]
    exact fitsIn_wrap hN _
  · rw [shift_of_nonneg hv hs]
    exact fitsIn_ediv_pow hv _

/-! ### The reserved modulo opcode (R142) -/

theorem not_legal_of_isReserved {v : Word} (h : isReserved v) : ¬ Legal v :=
  fun ⟨_, hclass, _⟩ => not_command_of_isReserved h hclass

theorem isReserved_of_modulo {v : Word} (h : opField v = 0x05#5) : isReserved v := by
  simp [isReserved, h]

/-! ### The statements -/

/-- Settles O32: each direction is one formula at every distance, whose limit by `N` or more is 0 or the sign fill; both
formulas keep the width. -/
theorem directionalShift : Obligations.DirectionalShift := by
  unfold Obligations.DirectionalShift
  intro N v s hN hlow hhigh
  have hv : FitsIn N v := ⟨hlow, hhigh⟩
  refine ⟨shift_of_neg N v, fun hs hwide => ?leftLimit, shift_of_nonneg hv, fun hs hwide => ?rightLimit,
    fitsIn_shift hN hv s⟩
  case leftLimit => rw [shift_of_neg N v hs, wrap_mul_pow_of_le (by omega)]
  case rightLimit => rw [shift_of_nonneg hv hs, ediv_pow_of_le hv (by omega)]

/-- Settles O5: 0x05 is a reserved opcode, so the word is illegal, whatever its other fields. -/
theorem moduloIsReserved : Obligations.ModuloIsReserved := by
  unfold Obligations.ModuloIsReserved
  intro v s hop
  obtain ⟨-, hillegal⟩ := legalWordsAndIllegalCommand v
  obtain ⟨hstep, -⟩ := hillegal (not_legal_of_isReserved (isReserved_of_modulo hop)) s
  exact hstep

end Sys2Proof.Proofs
end

section
/-! PROOFS, the family of spec/44_reciprocal.md: saturation (R243) and CONVERGENCE_FAILURE (R248). First how a command ends
with a given outcome and which outcomes are errors, then the wrapped magnitude (R242), then the loop of Newton-Raphson without
the loop (R246), then what INVERSE gives in the two cases, then the two statements. -/

namespace Sys2Proof.Proofs

open Sys2Proof.Machine
open Sys2Proof.Laws
open Sys2Proof.Safety

/-! ### Outcomes and the end of a command -/

theorem exec_of_outcome_ok {i : Instr} {s : State} {r : Int} (h : outcome i s.opa s.opb s.opc = .ok r) :
    exec i s = .next (endsOk (pattern r) s) := by
  rw [exec_eq, h]
  rfl

theorem exec_of_outcome_err {i : Instr} {s : State} {c : ErrorCode} (h : outcome i s.opa s.opb s.opc = .err c) :
    exec i s = .next (endsWith c s) := by
  rw [exec_eq, h]
  rfl

theorem errorNumber_injective : Function.Injective ErrorCode.number := by
  intro c d h
  revert h
  cases c <;> cases d <;> decide

/-- An error's number stands in CODE exactly when the command ended with that error. -/
theorem statusCode_endCommand_eq_number_iff (o : Result) (s : State) (c : ErrorCode) :
    statusCode (endCommand o s).status = c.number ↔ o = .err c := by
  cases o with
  | ok r => simpa [okNumber] using (errorNumber_ne_zero c).symm
  | err d => simp [errorNumber_injective.eq_iff]

theorem divScaled_eq_err_iff (x y : Scaled) (c : ErrorCode) :
    divScaled x y = .err c ↔ c = .divisionByZero ∧ y.raw = 0 := by
  unfold divScaled
  split_ifs with hzero <;> simp [hzero, eq_comm]

theorem fromDecimalResult_eq_err_iff (w dp : Int) (c : ErrorCode) :
    fromDecimalResult w dp = .err c ↔ c = .domainError ∧ (dp < 0 ∨ 18 < dp) := by
  unfold fromDecimalResult
  split_ifs with hrange <;> simp [hrange, eq_comm]

theorem clampResult_eq_err_iff (a mn mx : Int) (c : ErrorCode) :
    clampResult a mn mx = .err c ↔ c = .invalidRange ∧ mx < mn := by
  unfold clampResult
  dsimp only
  split_ifs with hrange <;> simp [hrange, eq_comm]

/-- INVERSE's only error is its case 5's, when the budget of the loop is spent (R240, R248). -/
theorem inverseResult_eq_err_iff (b : Config.Build) (x : Int) (c : ErrorCode) :
    inverseResult b x = .err c ↔
      c = .convergenceFailure ∧ Config.satThreshold < wabs x ∧ wabs x < rawOne ∧ newton b (wabs x) = none := by
  unfold inverseResult
  dsimp only
  split_ifs with hzero hone hsat habove
  · subst hzero
    simp [wabs, Config.satThreshold]
  · simp [hone]
  · simp [hsat]
  · simp [habove.le]
  · have hlow : Config.satThreshold < wabs x := not_le.mp hsat
    have hhigh : wabs x < rawOne := lt_of_le_of_ne (not_lt.mp habove) hone
    cases newton b (wabs x) <;> simp [hlow, hhigh, eq_comm]

/-- Only an INVERSE that fails in its case 5 ends with CONVERGENCE_FAILURE (60_exceptions.md R284). -/
theorem outcome_eq_convergenceFailure_iff (i : Instr) (a b c : Word) :
    outcome i a b c = .err .convergenceFailure ↔
      i = .inverse ∧ inverseResult Config.build (sext a) = .err .convergenceFailure := by
  cases i <;> simp [outcome, divScaled_eq_err_iff, fromDecimalResult_eq_err_iff, clampResult_eq_err_iff]

/-! ### The wrapped magnitude (R242) -/

/-- But for the least value, the wrapped magnitude is the magnitude. -/
theorem wabs_eq_natAbs {v : Int} (hv : Fits32 v) (hleast : v ≠ -2147483648) : wabs v = v.natAbs := by
  unfold Fits32 at hv
  unfold wabs
  split_ifs with hneg
  · rw [wrap_of_fits (by unfold Fits32; omega)]
    omega
  · omega

theorem wabs_least : wabs (-2147483648) = -2147483648 := by decide

/-- Saturation takes the magnitudes 0 and 1, and the least value, whose wrapped magnitude is negative (R243). -/
theorem wabs_le_satThreshold_iff {v : Int} (hv : Fits32 v) :
    wabs v ≤ Config.satThreshold ↔ v = 0 ∨ v = 1 ∨ v = -1 ∨ v = -2147483648 := by
  rw [Config.satThreshold]
  by_cases hleast : v = -2147483648
  · simp [hleast, wabs_least]
  · rw [wabs_eq_natAbs hv hleast]
    omega

/-! ### The loop of Newton-Raphson, without the loop (R246) -/

/-- Iterating from the first step's guess is iterating once more from the seed. -/
theorem newtonIterate_newtonStep (m seed : Int) (k : Nat) :
    newtonIterate m (newtonStep m seed) k = newtonIterate m seed (k + 1) := by
  induction k with
  | zero => rfl
  | succ k ih => exact congrArg (newtonStep m) ih

theorem newtonMeets_newtonStep (m seed : Int) (k : Nat) :
    newtonMeets m (newtonStep m seed) k ↔ newtonMeets m seed (k + 1) := by
  simp only [newtonMeets, newtonIterate_newtonStep]

/-- The loop fails exactly when no step within its budget meets the threshold. -/
theorem newtonLoop_eq_none_iff (m : Int) (budget : Nat) (seed : Int) :
    newtonLoop m budget seed = none ↔ ∀ k, k < budget → ¬ newtonMeets m seed k := by
  induction budget generalizing seed with
  | zero => simp [newtonLoop]
  | succ budget ih =>
    have hfirst : newtonLoop m (budget + 1) seed = none ↔
        ¬ newtonMeets m seed 0 ∧ newtonLoop m budget (newtonStep m seed) = none := by
      simp only [newtonLoop, newtonMeets, newtonIterate, Config.nrTh]
      split_ifs with hmeets <;> simp [hmeets]
    rw [hfirst, ih, Nat.forall_lt_succ_left]
    simp only [newtonMeets_newtonStep]

theorem newton_eq_none_iff (b : Config.Build) (m : Int) :
    newton b m = none ↔ ∀ k, k < 8 → ¬ newtonMeets m (seedValue b.nrSeed m) k :=
  newtonLoop_eq_none_iff m Config.nrMax (seedValue b.nrSeed m)

/-! ### INVERSE in the two cases -/

/-- The saturated result has the sign of the operand (R243). -/
theorem inverseResult_of_saturated (b : Config.Build) {x : Int} (hzero : x ≠ 0) (hsat : wabs x ≤ Config.satThreshold) :
    inverseResult b x = .ok (applySign (decide (x < 0)) rawSatmax) := by
  have hone : wabs x ≠ rawOne := by
    rw [Config.satThreshold] at hsat
    rw [rawOne]
    omega
  simp [inverseResult, hzero, hone, hsat]

/-- INVERSE fails on the magnitudes of case 5 that no iterate brings within the threshold, and on no others (R248). -/
theorem inverseResult_eq_convergenceFailure_iff (b : Config.Build) {x : Int} (hx : Fits32 x) :
    inverseResult b x = .err .convergenceFailure ↔
      2 ≤ x.natAbs ∧ x.natAbs < 1048576 ∧
        ∀ k, k < 8 → ¬ newtonMeets x.natAbs (seedValue b.nrSeed x.natAbs) k := by
  by_cases hleast : x = -2147483648
  · simp [inverseResult_eq_err_iff, hleast, wabs_least, Config.satThreshold]
  · have hlow : Config.satThreshold < (x.natAbs : Int) ↔ 2 ≤ x.natAbs := by
      rw [Config.satThreshold]
      omega
    have hhigh : (x.natAbs : Int) < rawOne ↔ x.natAbs < 1048576 := by
      rw [rawOne]
      omega
    rw [inverseResult_eq_err_iff, wabs_eq_natAbs hx hleast, hlow, hhigh, newton_eq_none_iff]
    simp only [true_and]

/-- The operand words of the saturation case, 0 being case 1's (R243). -/
theorem wabs_toInt_le_satThreshold_iff {x : Word} (hx : x ≠ 0#32) :
    wabs x.toInt ≤ Config.satThreshold ↔ x = 1#32 ∨ x = 0xFFFFFFFF#32 ∨ x = 0x80000000#32 := by
  have hzero : x.toInt ≠ 0 := BitVec.toInt_ne.mpr hx
  rw [wabs_le_satThreshold_iff (sext_fits x)]
  simp [hzero, ← BitVec.toInt_inj]

/-- On the three words of the saturation case INVERSE ends OK, with the bound and the operand's sign (R243). -/
theorem exec_inverse_of_saturated {s : State} (hsat : s.opa = 1#32 ∨ s.opa = 0xFFFFFFFF#32 ∨ s.opa = 0x80000000#32) :
    exec .inverse s = .next (endsOk (pattern (applySign (decide (s.opa.toInt < 0)) rawSatmax)) s) := by
  have hx : s.opa ≠ 0#32 := fun h => by simp [h] at hsat
  apply exec_of_outcome_ok
  exact inverseResult_of_saturated Config.build (BitVec.toInt_ne.mpr hx) ((wabs_toInt_le_satThreshold_iff hx).mpr hsat)

/-! ### The statements -/

/-- Settles O52: the three operands are the nonzero ones whose wrapped magnitude is at most the bound, and the result has the
operand's sign. -/
theorem inverseSaturates : Obligations.InverseSaturates := by
  unfold Obligations.InverseSaturates
  refine ⟨fun s => ⟨fun h => ?one, fun h => ?minusOne, fun h => ?least⟩, fun x => wabs_toInt_le_satThreshold_iff⟩
  case one =>
    rw [exec_inverse_of_saturated (.inl h), h]
    rfl
  case minusOne =>
    rw [exec_inverse_of_saturated (.inr (.inl h)), h]
    rfl
  case least =>
    rw [exec_inverse_of_saturated (.inr (.inr h)), h]
    rfl

/-- Settles O55: CODE is 3 exactly when the outcome is CONVERGENCE_FAILURE, which only INVERSE has, and only when its loop
spends its budget. -/
theorem convergenceFailureExactly : Obligations.ConvergenceFailureExactly := by
  unfold Obligations.ConvergenceFailureExactly
  refine ⟨?fails, ?only⟩
  case fails =>
    rintro s m rfl hlow hhigh hnever
    have hresult := (inverseResult_eq_convergenceFailure_iff _ (sext_fits s.opa)).mpr ⟨hlow, hhigh, hnever⟩
    exact ⟨_, exec_of_outcome_err hresult, statusCode_statusAfterError _ _, statusErrs_statusAfterError _ _, rfl⟩
  case only =>
    intro i s t hexec hcode
    rw [exec_eq] at hexec
    cases hexec
    have houtcome := (statusCode_endCommand_eq_number_iff _ s .convergenceFailure).mp hcode
    obtain ⟨hinverse, hresult⟩ := (outcome_eq_convergenceFailure_iff ..).mp houtcome
    exact ⟨hinverse, (inverseResult_eq_convergenceFailure_iff _ (sext_fits s.opa)).mp hresult⟩

end Sys2Proof.Proofs
end

section
/-! PROOFS, the family of spec/60_exceptions.md: DIVISION_BY_ZERO (R282), INVALID_RANGE (R283) and DOMAIN_ERROR (R285). First
which command ends with which error, said once for all errors that a command has (R288), then the operands of the three
errors, then the operands that are no errors, then the three statements. -/

namespace Sys2Proof.Proofs

open Sys2Proof.Machine
open Sys2Proof.Laws
open Sys2Proof.Safety

/-! ### Which command ends with which error (R288) -/

/-- Four commands can fail, each with its own error and on its own operands. -/
theorem outcome_eq_err_iff (i : Instr) (a b c : Word) (e : ErrorCode) :
    outcome i a b c = .err e ↔
      (e = .divisionByZero ∧ (∃ ka kb, i = .div ka kb) ∧ sext b = 0) ∨
      (e = .invalidRange ∧ i = .clamp ∧ sext c < sext b) ∨
      (e = .domainError ∧ i = .fromDecimal ∧ (sext b < 0 ∨ 18 < sext b)) ∨
      (e = .convergenceFailure ∧ i = .inverse ∧ inverseResult Config.build (sext a) = .err .convergenceFailure) := by
  cases i with
  | div ka kb => simp [outcome, divScaled_eq_err_iff, scaledOperand]
  | clamp => simp [outcome, clampResult_eq_err_iff]
  | fromDecimal => simp [outcome, fromDecimalResult_eq_err_iff]
  | inverse => simp [outcome, inverseResult_eq_err_iff]
  | _ => simp [outcome]

/-- CODE holds an error's number after a command exactly when that error is the command's outcome. -/
theorem statusCode_exec_eq_number_iff {i : Instr} {s t : State} (h : exec i s = .next t) (e : ErrorCode) :
    statusCode t.status = e.number ↔ outcome i s.opa s.opb s.opc = .err e := by
  rw [exec_eq] at h
  cases h
  exact statusCode_endCommand_eq_number_iff _ s e

theorem statusCode_endsWith (e : ErrorCode) (s : State) : statusCode (endsWith e s).status = e.number :=
  statusCode_statusAfterError s.status e

/-- A command that ends with an error changes CODE and ERRS alone, and CODE names the error (R287). -/
theorem exec_endsWith_of_outcome_err {i : Instr} {s : State} {e : ErrorCode}
    (h : outcome i s.opa s.opb s.opc = .err e) :
    exec i s = .next (endsWith e s) ∧ statusCode (endsWith e s).status = e.number :=
  ⟨exec_of_outcome_err h, statusCode_endsWith e s⟩

/-! ### The operands of each error -/

theorem outcome_eq_divisionByZero_iff (i : Instr) (a b c : Word) :
    outcome i a b c = .err .divisionByZero ↔ (∃ ka kb, i = .div ka kb) ∧ b = 0#32 := by
  simp [outcome_eq_err_iff, ← BitVec.toInt_inj]

theorem outcome_eq_invalidRange_iff (i : Instr) (a b c : Word) :
    outcome i a b c = .err .invalidRange ↔ i = .clamp ∧ c.toInt < b.toInt := by
  simp [outcome_eq_err_iff]

theorem outcome_eq_domainError_iff (i : Instr) (a b c : Word) :
    outcome i a b c = .err .domainError ↔ i = .fromDecimal ∧ (b.toInt < 0 ∨ 18 < b.toInt) := by
  simp [outcome_eq_err_iff]

/-! ### Operands that look like errors and are none -/

/-- Case 1 of the dispatcher: the reciprocal of 0 is 0 (R282, 44_reciprocal.md R241). -/
theorem inverseResult_zero (b : Config.Build) : inverseResult b 0 = .ok 0 := by
  simp [inverseResult]

/-- INV_I32 answers 0 for 0 before its series too (R282, 44_reciprocal.md R250). -/
theorem invInteger_zero : invInteger 0 = 0 := by
  simp [invInteger]

/-- Bounds that are not reversed are legal (R283). -/
theorem exec_clamp_of_le {s : State} (h : s.opb.toInt ≤ s.opc.toInt) : ∃ r, exec .clamp s = .next (endsOk r s) := by
  cases houtcome : outcome .clamp s.opa s.opb s.opc with
  | ok r => exact ⟨pattern r, exec_of_outcome_ok houtcome⟩
  | err e =>
    obtain ⟨-, hreversed⟩ := (clampResult_eq_err_iff _ _ _ e).mp houtcome
    exact absurd hreversed (not_lt.mpr h)

/-! ### The statements -/

/-- Settles O37: the raw value 0 is the whole of DIV's test, DIV is the only command that has the error, and case 1 of both
reciprocals comes before anything that could fail. -/
theorem divisionByZeroExactly : Obligations.DivisionByZeroExactly := by
  unfold Obligations.DivisionByZeroExactly
  refine ⟨fun ka kb s hzero => ?fails, fun i s t hexec hcode => ?only, fun s hzero => ⟨?inverse, ?invI32⟩⟩
  case fails => exact exec_endsWith_of_outcome_err ((outcome_eq_divisionByZero_iff ..).mpr ⟨⟨ka, kb, rfl⟩, hzero⟩)
  case only =>
    have houtcome := (statusCode_exec_eq_number_iff hexec .divisionByZero).mp hcode
    obtain ⟨⟨ka, kb, hdiv⟩, hzero⟩ := (outcome_eq_divisionByZero_iff ..).mp houtcome
    exact ⟨ka, kb, hdiv, hzero⟩
  case inverse =>
    apply exec_of_outcome_ok (r := 0)
    simp [outcome, hzero, inverseResult_zero]
  case invI32 =>
    apply exec_of_outcome_ok (r := 0)
    simp [outcome, hzero, invInteger_zero]

/-- Settles O45: CODE is 5 exactly when the outcome is DOMAIN_ERROR, which only FROM_DECIMAL has, by its range test. -/
theorem domainErrorExactly : Obligations.DomainErrorExactly := by
  unfold Obligations.DomainErrorExactly
  refine ⟨fun s hrange => ?fails, fun i s t hexec hcode => ?only⟩
  case fails => exact exec_endsWith_of_outcome_err ((outcome_eq_domainError_iff ..).mpr ⟨rfl, hrange⟩)
  case only =>
    have houtcome := (statusCode_exec_eq_number_iff hexec .domainError).mp hcode
    exact (outcome_eq_domainError_iff ..).mp houtcome

/-- Settles O47: CODE is 2 exactly when the outcome is INVALID_RANGE, which only CLAMP has, and only on reversed bounds. -/
theorem invalidRangeExactly : Obligations.InvalidRangeExactly := by
  unfold Obligations.InvalidRangeExactly
  refine ⟨fun s hreversed => ?fails, fun s hequal => ?equalBounds, fun i s t hexec hcode => ?only⟩
  case fails => exact exec_endsWith_of_outcome_err ((outcome_eq_invalidRange_iff ..).mpr ⟨rfl, hreversed⟩)
  case equalBounds => exact exec_clamp_of_le (congrArg BitVec.toInt hequal).le
  case only =>
    have houtcome := (statusCode_exec_eq_number_iff hexec .invalidRange).mp hcode
    exact (outcome_eq_invalidRange_iff ..).mp houtcome

end Sys2Proof.Proofs
end

section
/-! PROOFS, the family of spec/30_encoding.md: the decoder and the encoder are inverse to each other, and a command's word
lies under its own row of the opcode table (R91 to R100). First each field of the word both ways, then the parts of the
decoder both ways, then the rows, then the four statements. -/

namespace Sys2Proof.Proofs

open Sys2Proof.Laws

/-! ### Fields both ways -/

/-- FA and FB hold every scale that a well-formed kind has (R94). -/
theorem decodeKind_code_scale {k : OperandKind} (h : k.wellFormed = true) : decodeKind k.code k.scale = .ok k := by
  cases k with
  | can => rfl
  | int => rfl
  | exp n =>
    simp only [OperandKind.wellFormed, decide_eq_true_eq] at h
    have hn : (BitVec.ofInt 8 n).toInt = n := BitVec.toInt_ofInt_eq_self (by decide) (by omega) (by omega)
    simp [decodeKind, OperandKind.code, OperandKind.scale, hn]

/-- A kind code and a scale field that decode are those of the kind, and the kind is well formed (R93, R94). -/
theorem of_decodeKind {c : BitVec 2} {f : BitVec 8} {k : OperandKind} (h : decodeKind c f = .ok k) :
    k.wellFormed = true ∧ k.code = c ∧ k.scale = f := by
  unfold decodeKind at h
  split_ifs at h with hexp hreserved hscale hcan <;> cases h
  · have hlow := BitVec.le_toInt f
    have hhigh := BitVec.toInt_lt (x := f)
    refine ⟨?wellFormed, hexp.symm, BitVec.ofInt_toInt⟩
    simp only [OperandKind.wellFormed, decide_eq_true_eq]
    omega
  · exact ⟨rfl, hcan.symm, (not_not.mp hscale).symm⟩
  · refine ⟨rfl, ?code, (not_not.mp hscale).symm⟩
    -- What is left of the four kind codes is INT's.
    revert hexp hreserved hcan
    revert c
    decide

theorem selector_of_decodeSelector {c : BitVec 4} {k : ConstName} (h : decodeSelector c = .ok k) : k.selector = c := by
  unfold decodeSelector at h
  split at h <;> cases h <;> (rename_i hc; exact BitVec.eq_of_toNat_eq hc.symm)

/-- With bits 31 to 8 zero, each of the five fields is zero. -/
theorem fields_of_upperField_eq_zero {w : Word} (h : upperField w = 0#24) :
    fbField w = 0#8 ∧ faField w = 0#8 ∧ kselField w = 0#4 ∧ kbField w = 0#2 ∧ kaField w = 0#2 := by
  have hbit : ∀ i, i < 24 → w.getLsbD (8 + i) = false := by
    intro i hi
    simpa [upperField, hi] using congrArg (BitVec.getLsbD · i) h
  have hpart : ∀ start len, start + len ≤ 24 → w.extractLsb' (8 + start) len = 0#len := by
    intro start len hle
    apply BitVec.eq_of_getLsbD_eq
    intro i hi
    simpa [hi, Nat.add_assoc] using hbit (start + i) (by omega)
  exact ⟨hpart 16 8 (by decide), hpart 8 8 (by decide), hpart 4 4 (by decide), hpart 2 2 (by decide), hpart 0 2 (by decide)⟩

/-! ### Decoding an encoded word -/

/-- KSEL is 0 and both kinds are read back (R99 item 3). -/
theorem decodeArith_encodeArith (op : BitVec 5) {ka kb : OperandKind} (mk : OperandKind → OperandKind → Instr)
    (h : (ka.wellFormed && kb.wellFormed) = true) : decodeArith (encodeArith op ka kb) mk = .ok (mk ka kb) := by
  rw [Bool.and_eq_true] at h
  simp [decodeArith, encodeArith, decodeKind_code_scale h.1, decodeKind_code_scale h.2]

/-! ### Encoding a decoded word -/

/-- The parts of `encode` that a word with this decoding is put together from. -/
theorem encodeArith_of_decodeArith {w : Word} {mk : OperandKind → OperandKind → Instr} {i : Instr}
    (hrsv : rsvField w = 0#3) (h : decodeArith w mk = .ok i) :
    ∃ ka kb, i = mk ka kb ∧ (ka.wellFormed && kb.wellFormed) = true ∧ encodeArith (opField w) ka kb = w := by
  unfold decodeArith at h
  split_ifs at h with hksel
  split at h <;> cases h
  rename_i ka kb hka hkb
  obtain ⟨hwa, hca, hsa⟩ := of_decodeKind hka
  obtain ⟨hwb, hcb, hsb⟩ := of_decodeKind hkb
  refine ⟨ka, kb, rfl, by rw [hwa, hwb]; rfl, ?_⟩
  rw [encodeArith, hsa, hsb, hca, hcb, ← not_not.mp hksel]
  exact packWord_fields w hrsv

theorem packWord_of_decodeConst {w : Word} {i : Instr} (hrsv : rsvField w = 0#3) (h : decodeConst w = .ok i) :
    ∃ k, i = .const k ∧ packWord 0#8 0#8 k.selector 0#2 0#2 (opField w) = w := by
  unfold decodeConst at h
  split_ifs at h with hunused
  split at h <;> cases h
  rename_i k hk
  simp only [not_or, not_not] at hunused
  obtain ⟨hka, hkb, hfa, hfb⟩ := hunused
  refine ⟨k, rfl, ?_⟩
  have hw := packWord_fields w hrsv
  rwa [hka, hkb, hfa, hfb, ← selector_of_decodeSelector hk] at hw

theorem packWord_of_decodePlain {w : Word} {i j : Instr} (hrsv : rsvField w = 0#3) (h : decodePlain w i = .ok j) :
    j = i ∧ packWord 0#8 0#8 0#4 0#2 0#2 (opField w) = w := by
  unfold decodePlain at h
  split_ifs at h with hunused
  cases h
  obtain ⟨hfb, hfa, hksel, hkb, hka⟩ := fields_of_upperField_eq_zero (not_not.mp hunused)
  have hw := packWord_fields w hrsv
  rw [hka, hkb, hfa, hfb, hksel] at hw
  exact ⟨rfl, hw⟩

/-- What the arm of a command without fields accepts is that command's word. -/
theorem encode_of_decodePlain {w : Word} {i j : Instr} (h : decodePlain w i = .ok j) (hrsv : rsvField w = 0#3)
    (hop : (opField w).toNat = i.opcode.toNat) (hwf : i.WellFormed)
    (hencode : encode i = packWord 0#8 0#8 0#4 0#2 0#2 i.opcode) : j.WellFormed ∧ encode j = w := by
  obtain ⟨rfl, hw⟩ := packWord_of_decodePlain hrsv h
  exact ⟨hwf, by rw [hencode, ← BitVec.eq_of_toNat_eq hop, hw]⟩

/-- What the arm of a two-operand command accepts is that command's word. -/
theorem encode_of_decodeArith {w : Word} {mk : OperandKind → OperandKind → Instr} {i : Instr}
    (h : decodeArith w mk = .ok i) (hrsv : rsvField w = 0#3)
    (hop : ∀ ka kb, (opField w).toNat = (mk ka kb).opcode.toNat)
    (hwf : ∀ ka kb, (mk ka kb).wellFormed = (ka.wellFormed && kb.wellFormed))
    (hencode : ∀ ka kb, encode (mk ka kb) = encodeArith (mk ka kb).opcode ka kb) : i.WellFormed ∧ encode i = w := by
  obtain ⟨ka, kb, rfl, hkinds, hw⟩ := encodeArith_of_decodeArith hrsv h
  exact ⟨(hwf ka kb).trans hkinds, by rw [hencode, ← BitVec.eq_of_toNat_eq (hop ka kb), hw]⟩

/-- What CONST's arm accepts is the word of a CONST. -/
theorem encode_of_decodeConst {w : Word} {i : Instr} (h : decodeConst w = .ok i) (hrsv : rsvField w = 0#3)
    (hop : (opField w).toNat = 0x08) : i.WellFormed ∧ encode i = w := by
  obtain ⟨k, rfl, hw⟩ := packWord_of_decodeConst hrsv h
  rw [show opField w = 0x08#5 from BitVec.eq_of_toNat_eq hop] at hw
  exact ⟨rfl, hw⟩

theorem encode_of_decode {w : Word} {i : Instr} (h : decode w = .ok i) : i.WellFormed ∧ encode i = w := by
  unfold decode at h
  split_ifs at h with hreserved
  have hrsv : rsvField w = 0#3 := not_not.mp hreserved
  split at h
  case h_1 hop | h_2 hop | h_3 hop | h_4 hop =>
    exact encode_of_decodeArith h hrsv (fun _ _ => hop) (fun _ _ => rfl) (fun _ _ => rfl)
  case h_5 | h_19 => cases h
  case h_6 hop => exact encode_of_decodeConst h hrsv hop
  all_goals
    rename_i hop
    exact encode_of_decodePlain h hrsv hop rfl rfl

/-! ### The rows of the opcode table -/

/-- A mask acts on the fields of a packed word one by one; RSV is 0 already. -/
theorem packWord_and (fb fa mfb mfa : BitVec 8) (ksel mksel : BitVec 4) (kb ka mkb mka : BitVec 2) (op mop : BitVec 5)
    (mrsv : BitVec 3) :
    packWord fb fa ksel kb ka op &&& (mfb ++ mfa ++ mksel ++ mkb ++ mka ++ mrsv ++ mop).cast rfl =
      packWord (fb &&& mfb) (fa &&& mfa) (ksel &&& mksel) (kb &&& mkb) (ka &&& mka) (op &&& mop) := by
  apply BitVec.eq_of_getLsbD_eq
  intro i hi
  simp only [packWord, BitVec.getLsbD_and, BitVec.getLsbD_cast, BitVec.getLsbD_append]
  split_ifs <;> simp

theorem row_mem_opcodeTable (i : Instr) : i.row ∈ opcodeTable := by
  cases i <;> simp [opcodeTable, Instr.row]

/-- A row of a two-operand command leaves FB, FA and the kinds free. -/
theorem encodeArith_and_mask (op : BitVec 5) (ka kb : OperandKind) :
    encodeArith op ka kb &&& 0x0000F0FF#32 = packWord 0#8 0#8 0#4 0#2 0#2 op := by
  have h := packWord_and kb.scale ka.scale 0#8 0#8 0#4 15#4 kb.code ka.code 0#2 0#2 op 31#5 7#3
  rwa [BitVec.and_zero, BitVec.and_zero, BitVec.and_zero, BitVec.and_zero, BitVec.zero_and,
    show op &&& 31#5 = op from BitVec.and_allOnes] at h

/-- CONST's row leaves the selector free. -/
theorem packWord_selector_and_mask (k : BitVec 4) (op : BitVec 5) :
    packWord 0#8 0#8 k 0#2 0#2 op &&& 0xFFFF0FFF#32 = packWord 0#8 0#8 0#4 0#2 0#2 op := by
  have h := packWord_and 0#8 0#8 255#8 255#8 k 0#4 0#2 0#2 3#2 3#2 op 31#5 7#3
  rwa [BitVec.and_zero, BitVec.zero_and, BitVec.zero_and, show op &&& 31#5 = op from BitVec.and_allOnes] at h

/-- The word of every command lies under the command's row. -/
theorem row_covers_encode (i : Instr) : i.row.covers (encode i) = true := by
  rw [OpcodeRow.covers, beq_iff_eq]
  cases i with
  | add ka kb => exact encodeArith_and_mask 0x01#5 ka kb
  | sub ka kb => exact encodeArith_and_mask 0x02#5 ka kb
  | mul ka kb => exact encodeArith_and_mask 0x03#5 ka kb
  | div ka kb => exact encodeArith_and_mask 0x04#5 ka kb
  | const k => exact packWord_selector_and_mask k.selector 0x08#5
  | _ => decide

/-- A word lies under one row of the table at most. -/
theorem row_unique {w : Word} {r q : OpcodeRow} (hr : r ∈ opcodeTable) (hq : q ∈ opcodeTable)
    (hrw : r.covers w = true) (hqw : q.covers w = true) : r = q := by
  by_contra hne
  have hsymm : Std.Symm fun a b : OpcodeRow =>
      a.pattern &&& (a.mask &&& b.mask) ≠ b.pattern &&& (a.mask &&& b.mask) :=
    ⟨fun a b h hab => h (by rw [BitVec.and_comm a.mask, hab])⟩
  apply opcodeTable_disjoint.forall hr hq hne
  rw [OpcodeRow.covers, beq_iff_eq] at hrw hqw
  -- Under both rows, the word's bits in both masks are the pattern's of either row.
  calc r.pattern &&& (r.mask &&& q.mask) = w &&& (r.mask &&& q.mask) := by
        rw [← hrw, BitVec.and_assoc, ← BitVec.and_assoc r.mask, BitVec.and_self]
    _ = q.pattern &&& (r.mask &&& q.mask) := by
        rw [← hqw, BitVec.and_comm r.mask, BitVec.and_assoc, ← BitVec.and_assoc q.mask, BitVec.and_self]

/-! ### The statements -/

/-- Settles O2: the kinds and their scales are read back from their fields, and every other command has finitely many words. -/
theorem decodeOfEncodeIsTheCommand : Obligations.DecodeOfEncodeIsTheCommand := by
  unfold Obligations.DecodeOfEncodeIsTheCommand
  intro i hwf
  cases i with
  | add ka kb =>
    obtain ⟨hop, hrsv⟩ := EncodedOpcode.add ka kb
    rw [decode, hrsv, hop]
    exact decodeArith_encodeArith 0x01#5 .add hwf
  | sub ka kb =>
    obtain ⟨hop, hrsv⟩ := EncodedOpcode.sub ka kb
    rw [decode, hrsv, hop]
    exact decodeArith_encodeArith 0x02#5 .sub hwf
  | mul ka kb =>
    obtain ⟨hop, hrsv⟩ := EncodedOpcode.mul ka kb
    rw [decode, hrsv, hop]
    exact decodeArith_encodeArith 0x03#5 .mul hwf
  | div ka kb =>
    obtain ⟨hop, hrsv⟩ := EncodedOpcode.div ka kb
    rw [decode, hrsv, hop]
    exact decodeArith_encodeArith 0x04#5 .div hwf
  -- The seven words of CONST and the one word of every command without fields are closed: the decoder runs on them.
  | const k => cases k <;> rfl
  | _ => rfl

/-- Settles O3: the fields that a part of the decoder accepts are those that the encoder writes, and RSV is 0. -/
theorem encodeOfDecodeIsTheWord : Obligations.EncodeOfDecodeIsTheWord :=
  fun _ _ => encode_of_decode

/-- Settles O6: a word that decodes is its command's word, which lies under the command's row, and rows are disjoint. -/
theorem decodedWordLiesUnderItsRowOnly : Obligations.DecodedWordLiesUnderItsRowOnly := by
  unfold Obligations.DecodedWordLiesUnderItsRowOnly
  intro w i hdecode
  obtain ⟨-, rfl⟩ := encode_of_decode hdecode
  have hcovers := row_covers_encode i
  exact ⟨row_mem_opcodeTable i, hcovers, fun r hr hrw => row_unique hr (row_mem_opcodeTable i) hrw hcovers⟩

/-- Settles O1, by running the decoder on the ten words. -/
theorem writtenOutWordsDecode : Obligations.WrittenOutWordsDecode := by
  unfold Obligations.WrittenOutWordsDecode
  decide

end Sys2Proof.Proofs
end

section
/-! PROOFS, the family of spec/10_state.md and spec/60_exceptions.md: the STATUS invariant (R37) and what a command and a step
change. First the reserved bits of STATUS and what each update of it does to them, then the invariant, then the end of a
command, then the statements. -/

namespace Sys2Proof.Proofs

open Sys2Proof.Machine
open Sys2Proof.Laws
open Sys2Proof.Safety

/-! ### The reserved bits of STATUS -/

/-- Every bit of the mask of the reserved bits. -/
theorem getLsbD_reservedMask (k : Nat) (hk : k < 32) :
    (0xFFFFFEF0#32).getLsbD k = (decide (4 ≤ k) && decide (k ≠ 8)) := by
  have key : ∀ j : Fin 32, (0xFFFFFEF0#32).getLsbD j.val = (decide (4 ≤ j.val) && decide (j.val ≠ 8)) := by decide
  exact key ⟨k, hk⟩

/-- The reserved bits are all but CODE and ERRS (R37). -/
theorem reserved_eq_zero_iff (st : Word) :
    st &&& 0xFFFFFEF0#32 = 0#32 ↔ ∀ k, 4 ≤ k → k ≠ 8 → st.getLsbD k = false := by
  constructor
  · intro h k hlow hne
    by_cases hk : k < 32
    · have hbit := congrArg (BitVec.getLsbD · k) h
      simpa [getLsbD_reservedMask k hk, hlow, hne] using hbit
    · exact BitVec.getLsbD_of_ge st k (by omega)
  · intro h
    apply BitVec.eq_of_getLsbD_eq
    intro k hk
    by_cases hreserved : 4 ≤ k ∧ k ≠ 8
    · simp [h k hreserved.1 hreserved.2]
    · rw [BitVec.getLsbD_and, getLsbD_reservedMask k hk]
      simp
      omega

theorem getLsbD_statusSetErrs_of_ne (st : Word) {k : Nat} (hk : k ≠ 8) :
    (statusSetErrs st).getLsbD k = st.getLsbD k := by
  simp [statusSetErrs, getLsbD_errsMask, hk]

theorem getLsbD_statusClearErrs_of_ne (st : Word) {k : Nat} (hk : k ≠ 8) :
    (statusClearErrs st).getLsbD k = st.getLsbD k := by
  by_cases h32 : k < 32
  · simp only [statusClearErrs, BitVec.getLsbD_and, getLsbD_errsClearMask]
    simp [h32, hk]
  · rw [BitVec.getLsbD_of_ge _ k (by omega), BitVec.getLsbD_of_ge _ k (by omega)]

theorem getLsbD_statusAfterHostWrite_of_ne (st v : Word) {k : Nat} (hk : k ≠ 8) :
    (statusAfterHostWrite st v).getLsbD k = st.getLsbD k := by
  unfold statusAfterHostWrite
  split_ifs
  · exact getLsbD_statusClearErrs_of_ne st hk
  · rfl

/-- The end of a command changes no reserved bit of STATUS. -/
theorem getLsbD_endCommand_reserved (o : Result) (s : State) {k : Nat} (hlow : 4 ≤ k) (hne : k ≠ 8) :
    (endCommand o s).status.getLsbD k = s.status.getLsbD k := by
  cases o with
  | ok r => exact getLsbD_statusWithCode_high s.status okNumber k hlow
  | err c =>
    rw [endCommand_err_status, statusAfterError, getLsbD_statusSetErrs_of_ne _ hne, getLsbD_statusWithCode_high _ _ k hlow]

/-! ### How a command ends -/

/-- The number that a command's outcome leaves in CODE. -/
def codeOf : Result → BitVec 4
  | .ok _ => 0#4
  | .err c => c.number

@[simp] theorem statusCode_endCommand (o : Result) (s : State) : statusCode (endCommand o s).status = codeOf o := by
  cases o <;> simp [codeOf]

theorem codeOf_le_five (o : Result) : (codeOf o).toNat ≤ 5 := by
  cases o with
  | ok r => exact Nat.zero_le 5
  | err c => exact (errorNumber_range c).2

/-- CODE 0 is left by the commands that end OK. -/
theorem codeOf_eq_zero_iff (o : Result) : codeOf o = 0#4 ↔ ∃ r, o = .ok r := by
  cases o with
  | ok r => simp [codeOf]
  | err c => simp [codeOf, errorNumber_ne_zero c]

/-- RES takes the result if there is one and stays otherwise, so the same outcome twice leaves it as it is. -/
theorem endCommand_res_of_res_eq {o : Result} {s t : State} (h : s.res = (endCommand o t).res) :
    (endCommand o s).res = (endCommand o t).res := by
  cases o with
  | ok r => rfl
  | err c => exact h

/-- What an accepted CMD write does, aborted or not. -/
theorem serve_commandWrite (v : Word) (s : State) :
    serve (commandWrite v) s =
      .next (endCommand (wordOutcome v s.opa s.opb s.opc) ((s.setResponse (some .writeOkay)).setCmd v)) := by
  rw [← step_arriveFirst, step_commandWrite]

/-- A command leaves the events that wait. -/
theorem serve_commandWrite_port {v : Word} {s t : State} (h : serve (commandWrite v) s = .next t) : t.port = s.port := by
  rw [serve_commandWrite] at h
  cases h
  obtain ⟨-, -, -, -, hport, -⟩ :=
    endCommand_frame (wordOutcome v s.opa s.opb s.opc) ((s.setResponse (some .writeOkay)).setCmd v)
  exact hport

/-- The first of two equal CMD writes leaves the operands, so the second has the same outcome. -/
theorem serve_commandWrite_twice {v : Word} {p : List PortEvent} {s t u : State}
    (hfirst : serve (commandWrite v) s = .next t)
    (hsecond : serve (commandWrite v) (t.setPort p) = .next u) :
    u.res = t.res ∧ statusCode u.status = statusCode t.status ∧ u.cmd = v := by
  rw [serve_commandWrite] at hfirst hsecond
  cases hfirst
  obtain ⟨-, hopa, hopb, hopc, -, -⟩ :=
    endCommand_frame (wordOutcome v s.opa s.opb s.opc) ((s.setResponse (some .writeOkay)).setCmd v)
  rw [State.setPort_opa, State.setPort_opb, State.setPort_opc, hopa, hopb, hopc] at hsecond
  cases hsecond
  refine ⟨endCommand_res_of_res_eq rfl, ?code, (endCommand_frame _ _).1⟩
  case code => simp

/-! ### The invariant -/

theorem stateLegal_of_status_eq {s t : State} (h : t.status = s.status) (hs : StateLegal s) : StateLegal t := by
  unfold StateLegal at *
  rwa [h]

theorem writeReg_keeps_stateLegal (r : Reg) (v : Word) {s : State} (hs : StateLegal s) : StateLegal (writeReg r v s) := by
  by_cases hr : r = .status
  · subst hr
    obtain ⟨hcode, hreserved⟩ := hs
    refine ⟨?_, ?_⟩
    · simpa [writeReg] using hcode
    · rw [reserved_eq_zero_iff] at hreserved ⊢
      intro k hlow hne
      exact (getLsbD_statusAfterHostWrite_of_ne s.status v hne).trans (hreserved k hlow hne)
  · exact stateLegal_of_status_eq (writeReg_status_of_ne hr v s) hs

theorem endCommand_keeps_stateLegal (o : Result) {s : State} (hs : StateLegal s) : StateLegal (endCommand o s) := by
  obtain ⟨-, hreserved⟩ := hs
  refine ⟨?_, ?_⟩
  · rw [statusCode_endCommand]
    exact codeOf_le_five o
  · rw [reserved_eq_zero_iff] at hreserved ⊢
    intro k hlow hne
    exact (getLsbD_endCommand_reserved o s hlow hne).trans (hreserved k hlow hne)

theorem stateLegal_reset : StateLegal State.reset := by
  unfold StateLegal StatusLegal
  decide

theorem serve_keeps_stateLegal {e : PortEvent} {s t : State} (hs : StateLegal s) (h : serve e s = .next t) :
    StateLegal t := by
  obtain ⟨a, rfl, -⟩ | ⟨off, n, v, r, -, -, -, rfl⟩ | ⟨v, a, -, rfl⟩ | ⟨-, rfl⟩ := serve_cases h
  · exact hs
  · exact writeReg_keeps_stateLegal r v hs
  · exact endCommand_keeps_stateLegal _ hs
  · exact stateLegal_reset

/-! ### RES -/

theorem writeReg_res (r : Reg) (v : Word) (s : State) : (writeReg r v s).res = s.res := by
  cases r <;> rfl

/-- The events that change RES are the CMD writes whose command ends OK, and the resets. -/
theorem serve_changes_res {e : PortEvent} {s t : State} (h : serve e s = .next t) (hres : t.res ≠ s.res) :
    (∃ v, (e = commandWrite v ∨ e = .cmdWriteAborted v) ∧ statusCode t.status = 0#4) ∨
      e = .reset ∨ ∃ v, e = .resetDuringCommand v := by
  obtain ⟨a, rfl, -⟩ | ⟨off, n, v, r, -, -, -, rfl⟩ | ⟨v, a, he, rfl⟩ | ⟨hreset, -⟩ := serve_cases h
  · exact absurd rfl hres
  · exact absurd (writeReg_res r v _) hres
  · refine .inl ⟨v, ?event, ?code⟩
    case event =>
      refine he.imp_left ?_
      rintro ⟨off, n, rfl, hw⟩
      obtain ⟨rfl, rfl, -⟩ := writeTarget_eq_some hw
      rfl
    case code =>
      cases ho : wordOutcome v s.opa s.opb s.opc with
      | ok r => simp
      | err c =>
        rw [ho] at hres
        exact absurd rfl hres
  · exact .inr hreset

/-! ### The statements -/

/-- Settles O25: an idle step changes nothing, and each case of serving an event keeps the invariant. -/
theorem everyStepKeepsStatusLegal : Obligations.EveryStepKeepsStatusLegal := by
  unfold Obligations.EveryStepKeepsStatusLegal
  intro s t hs hstep
  cases hport : s.port with
  | nil =>
    rw [step_idle hport] at hstep
    cases hstep
    exact hs
  | cons e rest =>
    rw [step_serve hport] at hstep
    exact serve_keeps_stateLegal (s := s.setPort rest) hs hstep

/-- Settles O24: CODE and the reserved bits are 0 at reset. -/
theorem resetStatusIsLegal : Obligations.ResetStatusIsLegal := stateLegal_reset

/-- Settles O27: every command ends by `endCommand`, whose frame this is. -/
theorem commandsChangeOnlyResAndStatus : Obligations.CommandsChangeOnlyResAndStatus := by
  unfold Obligations.CommandsChangeOnlyResAndStatus
  intro i s t hexec
  rw [exec_eq] at hexec
  cases hexec
  generalize outcome i s.opa s.opb s.opc = o
  obtain ⟨hcmd, hopa, hopb, hopc, hport, hresponse⟩ := endCommand_frame o s
  refine ⟨hcmd, hopa, hopb, hopc, hport, hresponse, fun k => getLsbD_endCommand_reserved o s, ?error, ?ok⟩
  all_goals rw [statusCode_endCommand]
  case error =>
    intro hcode
    cases o with
    | ok r => exact absurd rfl hcode
    | err c => exact ⟨rfl, statusErrs_statusAfterError s.status c⟩
  case ok =>
    intro hcode
    obtain ⟨r, rfl⟩ := (codeOf_eq_zero_iff o).mp hcode
    exact statusErrs_statusAfterOk s.status

/-- Settles O28: an outcome that is an error is one of four, each of its own command. -/
theorem eachCommandRaisesItsOwnErrorOnly : Obligations.EachCommandRaisesItsOwnErrorOnly := by
  unfold Obligations.EachCommandRaisesItsOwnErrorOnly
  intro i s t hexec
  rw [exec_eq] at hexec
  cases hexec
  rw [statusCode_endCommand]
  cases houtcome : outcome i s.opa s.opb s.opc with
  | ok r => cases i <;> simp [possibleCodes, codeOf]
  | err e =>
    obtain ⟨rfl, ⟨ka, kb, rfl⟩, -⟩ | ⟨rfl, rfl, -⟩ | ⟨rfl, rfl, -⟩ | ⟨rfl, rfl, -⟩ := (outcome_eq_err_iff ..).mp houtcome
    all_goals simp [possibleCodes, codeOf, ErrorCode.number]

/-- Settles O29: the outcome is a function of the command and the operands, and it decides CODE and, when OK, RES. -/
theorem commandsArePure : Obligations.CommandsArePure := by
  unfold Obligations.CommandsArePure
  intro i s s' t t' hopa hopb hopc hexec hexec'
  rw [exec_eq] at hexec hexec'
  rw [← hopa, ← hopb, ← hopc] at hexec'
  cases hexec
  cases hexec'
  generalize outcome i s.opa s.opb s.opc = o
  simp only [statusCode_endCommand, true_and]
  intro hcode
  obtain ⟨r, rfl⟩ := (codeOf_eq_zero_iff o).mp hcode
  rfl

/-- Settles O30: the first write leaves the operands, so the second has the same outcome. -/
theorem repeatedCommandRepeatsItsResult : Obligations.RepeatedCommandRepeatsItsResult := by
  unfold Obligations.RepeatedCommandRepeatsItsResult
  intro s t u rest v hport hfirst hsecond
  rw [step_serve hport] at hfirst
  have hrest : t.port = commandWrite v :: rest := serve_commandWrite_port hfirst
  rw [step_serve hrest] at hsecond
  exact serve_commandWrite_twice hfirst hsecond

/-- Settles O31: an idle step keeps RES, and only commands that end OK and resets change it. -/
theorem onlyCommandsAndResetChangeRes : Obligations.OnlyCommandsAndResetChangeRes := by
  unfold Obligations.OnlyCommandsAndResetChangeRes
  intro s t hstep hres
  cases hport : s.port with
  | nil =>
    rw [step_idle hport] at hstep
    cases hstep
    exact absurd rfl hres
  | cons e rest =>
    rw [step_serve hport] at hstep
    exact ⟨e, rest, rfl, serve_changes_res (s := s.setPort rest) hstep hres⟩

end Sys2Proof.Proofs
end

section
/-! PROOFS, the family of spec/20_memory.md and spec/70_reset_and_hazards.md: the step, the register window (R61 to R67), reset
(R320) and the aborted write (R325). First what a step gives for each event, then the statements about the window, then those
about the step and reset. -/

namespace Sys2Proof.Proofs

open Sys2Proof.Machine
open Sys2Proof.Laws
open Sys2Proof.Safety

/-! ### What a step gives -/

/-- Every event has an outcome, and it is a next state. -/
theorem serve_next (e : PortEvent) (s : State) : ∃ t, serve e s = .next t := by
  cases e with
  | read off n => exact ⟨_, rfl⟩
  | write off n v =>
    rw [serve]
    cases hw : writeTarget off n with
    | none => exact ⟨_, serveWrite_refused v s hw⟩
    | some r =>
      by_cases hr : r = .cmd
      · subst hr
        rw [serveWrite_command v s hw, runCommand_eq]
        exact ⟨_, rfl⟩
      · exact ⟨_, serveWrite_accepted v s hw hr⟩
  | reset => exact ⟨_, rfl⟩
  | resetDuringCommand v => exact ⟨_, rfl⟩
  | cmdWriteAborted v => exact ⟨_, runCommand_eq v _⟩

/-- A CMD write whose word decodes runs the command, with CMD holding the word and the write answered (R68). -/
theorem step_of_decode {s : State} {rest : List PortEvent} {v : Word} {i : Instr} (hport : s.port = commandWrite v :: rest)
    (hdecode : decode v = .ok i) :
    step s = exec i { s with cmd := v, port := rest, response := some .writeOkay } := by
  rw [step_serve hport, commandWrite, serve, serveWrite_command v _ (writeTarget_offset rfl), runCommand, hdecode]
  rfl

/-- A full-width write of a writable register other than CMD is that register's own write. -/
theorem step_write_offset {r : Reg} (hr : r.writable = true) (hcmd : r ≠ .cmd) (v : Word) (s : State) :
    step (arriveFirst (.write r.offset 4 v) s) = .next (writeReg r v (s.setResponse (some .writeOkay))) := by
  rw [step_arriveFirst, serve, serveWrite_accepted v s (writeTarget_offset hr) hcmd]

/-- The answer that a command leaves does not reach its outcome. -/
theorem endCommand_response (o : Result) (v : Word) (a b : Option Response) (s : State) :
    endCommand o ((s.setResponse b).setCmd v) = (endCommand o ((s.setResponse a).setCmd v)).setResponse b := by
  cases o <;> rfl

/-! ### The register window -/

theorem lookup_windowContents_offset (s : State) (r : Reg) :
    (windowContents s).lookup r.offset = some (readReg r s) := by
  cases r <;> rfl

theorem lookup_windowContents_eq_none {off : Nat} (s : State) (h : ¬ ∃ r : Reg, off = r.offset) :
    (windowContents s).lookup off = none := by
  rw [List.lookup_eq_none_iff]
  simp only [windowContents, List.mem_cons, List.not_mem_nil, or_false]
  rintro p (rfl | rfl | rfl | rfl | rfl | rfl | rfl) <;> rw [bne_iff_ne] <;> rintro rfl
  exacts [h ⟨.cmd, rfl⟩, h ⟨.opa, rfl⟩, h ⟨.opb, rfl⟩, h ⟨.opc, rfl⟩, h ⟨.res, rfl⟩, h ⟨.status, rfl⟩, h ⟨.info, rfl⟩]

/-- After a write of CMD or of an operand register, the register holds the word; what waits at the port still waits. -/
theorem serve_write_stores {r : Reg} (hr : r = .cmd ∨ r = .opa ∨ r = .opb ∨ r = .opc) (v : Word) (s : State) :
    ∃ t, serve (.write r.offset 4 v) s = .next t ∧ t.port = s.port ∧ readReg r t = v := by
  obtain rfl | hr := hr
  · obtain ⟨hcmd, -, -, -, hport, -⟩ :=
      endCommand_frame (wordOutcome v s.opa s.opb s.opc) ((s.setResponse (some .writeOkay)).setCmd v)
    exact ⟨_, serve_commandWrite v s, hport, hcmd⟩
  · obtain rfl | rfl | rfl := hr <;> exact ⟨_, rfl, rfl, rfl⟩

/-- Every bit of the mask of CODE and ERRS. -/
theorem getLsbD_viewMask (k : Nat) : (0x0000010F#32).getLsbD k = (decide (k < 4) || decide (k = 8)) := by
  by_cases hk : k < 32
  · have key : ∀ j : Fin 32, (0x0000010F#32).getLsbD j.val = (decide (j.val < 4) || decide (j.val = 8)) := by decide
    exact key ⟨k, hk⟩
  · rw [BitVec.getLsbD_of_ge _ _ (by omega)]
    simp
    omega

theorem getLsbD_statusView (st : Word) (k : Nat) :
    (statusView st).getLsbD k = (st.getLsbD k && (decide (k < 4) || decide (k = 8))) := by
  rw [statusView, BitVec.getLsbD_and, getLsbD_viewMask]

theorem statusCode_statusView (st : Word) : statusCode (statusView st) = statusCode st := by
  apply BitVec.eq_of_getLsbD_eq
  intro k hk
  simp [statusCode, getLsbD_statusView, hk]

theorem statusErrs_statusView (st : Word) : statusErrs (statusView st) = statusErrs st := by
  rw [statusErrs, getLsbD_statusView]
  exact Bool.and_true _

/-- Under the invariant the bits that a read masks are 0 already. -/
theorem statusView_of_legal {st : Word} (h : StatusLegal st) : statusView st = st := by
  obtain ⟨-, hreserved⟩ := h
  rw [reserved_eq_zero_iff] at hreserved
  apply BitVec.eq_of_getLsbD_eq
  intro k hk
  rw [getLsbD_statusView]
  by_cases hlow : k < 4
  · simp [hlow]
  · by_cases hne : k = 8
    · simp [hne]
    · simp [hreserved k (by omega) hne]

/-- `mov OPx, RES` is a write of RES's value (30_encoding.md R105). -/
theorem runLine_mov {r : Reg} (hr : r.writable = true) (hcmd : r ≠ .cmd) (s : State) :
    runLine (.mov r) s =
      .next (writeReg r s.res ((s.setResponse (some (.readOkay s.res))).setResponse (some .writeOkay))) := by
  have hread : issue (.read Reg.res.offset 4) s = .next (s.setResponse (some (.readOkay s.res))) :=
    step_read_accepted s (readTarget_offset .res)
  rw [runLine, hread]
  exact step_write_offset hr hcmd s.res _

/-! ### The statements about the window -/

/-- Settles O13: a read at a register's offset is accepted if it is 4 bytes wide, and any other is refused. -/
theorem readsReturnValuesAndChangeNothing : Obligations.ReadsReturnValuesAndChangeNothing := by
  unfold Obligations.ReadsReturnValuesAndChangeNothing
  intro s off n
  by_cases hoff : ∃ r : Reg, off = r.offset
  · obtain ⟨r, rfl⟩ := hoff
    rw [lookup_windowContents_offset]
    by_cases hn : n = 4
    · subst hn
      exact step_read_accepted s (readTarget_offset r)
    · rw [step_read_refused s fun h => hn h.1]
      change _ = Host.Outcome.next (s.setResponse (some (if n = 4 then .readOkay (readReg r s) else .readError 0#32)))
      rw [if_neg hn]
  · rw [lookup_windowContents_eq_none s hoff, step_read_refused s fun h => hoff ((accepted_iff_offset off n).mp h).2]
    rfl

/-- Settles O14: each is the operand register's own write. -/
theorem operandWritesStoreTheWord : Obligations.OperandWritesStoreTheWord := by
  unfold Obligations.OperandWritesStoreTheWord
  intro s v
  exact ⟨step_write_offset (r := .opa) rfl (by decide) v s, step_write_offset (r := .opb) rfl (by decide) v s,
    step_write_offset (r := .opc) rfl (by decide) v s⟩

/-- Settles O15: STATUS's own write changes no bit but ERRS. -/
theorem statusWriteClearsErrsOnly : Obligations.StatusWriteClearsErrsOnly := by
  unfold Obligations.StatusWriteClearsErrsOnly
  intro s v
  exact ⟨_, step_write_offset (r := .status) rfl (by decide) v s, statusErrs_statusAfterHostWrite s.status v,
    fun k hk => getLsbD_statusAfterHostWrite_of_ne s.status v hk⟩

/-- Settles O16: the write stores the word, whatever command it may start, and the read that waits returns it. -/
theorem readAfterWriteReturnsTheWord : Obligations.ReadAfterWriteReturnsTheWord := by
  unfold Obligations.ReadAfterWriteReturnsTheWord
  intro s rest off v hoff hport
  obtain ⟨r, rfl, hr⟩ : ∃ r : Reg, off = r.offset ∧ (r = .cmd ∨ r = .opa ∨ r = .opb ∨ r = .opc) := by
    simp only [List.mem_cons, List.not_mem_nil, or_false] at hoff
    obtain rfl | rfl | rfl | rfl := hoff
    exacts [⟨.cmd, rfl, by simp⟩, ⟨.opa, rfl, by simp⟩, ⟨.opb, rfl, by simp⟩, ⟨.opc, rfl, by simp⟩]
  obtain ⟨t, hserve, htport, htv⟩ := serve_write_stores hr v (s.setPort (.read r.offset 4 :: rest))
  refine ⟨t, (t.setPort rest).setResponse (some (.readOkay v)), ?write, ?read, rfl⟩
  case write => rw [step_serve hport, hserve]
  case read =>
    rw [step_serve htport, serve_read_offset, ← htv]
    cases r <;> rfl

/-- Settles O18: a read masks all bits but CODE and ERRS, and under the invariant there is nothing to mask. -/
theorem statusReadsReservedBitsAsZero : Obligations.StatusReadsReservedBitsAsZero := by
  unfold Obligations.StatusReadsReservedBitsAsZero
  intro s
  refine ⟨statusView s.status, step_read_accepted s (readTarget_offset .status), statusCode_statusView s.status,
    statusErrs_statusView s.status, fun k hlow hne => ?reserved, fun hs => statusView_of_legal hs⟩
  case reserved =>
    rw [getLsbD_statusView]
    simp [hne, hlow]

/-- Settles O19: adjacent lanes are adjacent bits. -/
theorem byteLanesAreLittleEndian : Obligations.ByteLanesAreLittleEndian := by
  unfold Obligations.ByteLanesAreLittleEndian
  intro w
  have hword : wordOfLanes (byteLane w 0) (byteLane w 1) (byteLane w 2) (byteLane w 3) = w := by
    simp only [wordOfLanes, byteLane]
    rw [BitVec.extractLsb'_append_extractLsb'_eq_extractLsb' (show 8 * 3 = 8 * 2 + 8 from rfl),
      BitVec.extractLsb'_append_extractLsb'_eq_extractLsb' (show 8 * 2 = 8 * 1 + 8 from rfl),
      BitVec.extractLsb'_append_extractLsb'_eq_extractLsb' (show 8 * 1 = 8 * 0 + 8 from rfl)]
    exact BitVec.extractLsb'_eq_self
  refine ⟨hword, by rw [decodeBytes, hword], fun k i _ hi => ?bit⟩
  case bit => simp [byteLane, hi]

/-- Settles O20, by arithmetic on `BASE`, a multiple of 32. -/
theorem windowAddressesAreOffsets : Obligations.WindowAddressesAreOffsets := by
  unfold Obligations.WindowAddressesAreOffsets
  have hbase : Config.base % 32 = 0 := Nat.mul_mod_right 32 Config.baseIndex
  have hinside : ∀ off, off < 32 → windowOffset (windowAddress off) = some off := by
    intro off hoff
    simp [windowOffset, windowAddress, hoff]
  refine ⟨hbase, hinside, fun off => ?aligned, fun a ha => ?outside, fun off n v hoff => ?events⟩
  case aligned =>
    rw [windowAddress]
    omega
  case outside =>
    rw [windowOffset, if_neg (by omega)]
  case events => simp [memRead, memWrite, hinside off hoff]

/-- Settles O21: the read answers RES, and the data is then written as any word is. -/
theorem movCopiesRes : Obligations.MovCopiesRes := by
  unfold Obligations.MovCopiesRes
  intro s
  exact ⟨runLine_mov (r := .opa) rfl (by decide) s, runLine_mov (r := .opb) rfl (by decide) s,
    runLine_mov (r := .opc) rfl (by decide) s⟩

/-! ### The statements about the step and reset -/

/-- Settles O8: the decoded command runs after CMD is written; a word placed by `withFetchWord` is such a write. -/
theorem stepRunsTheDecodedCommand : Obligations.StepRunsTheDecodedCommand := by
  unfold Obligations.StepRunsTheDecodedCommand
  refine ⟨fun s rest v i => step_of_decode, fun s nbits w i hdecode => ?placed⟩
  case placed =>
    have hword : decode (tableWord nbits w) = .ok i := by
      unfold decodeTableWord at hdecode
      split at hdecode <;> cases hdecode
      assumption
    exact step_of_decode (s := s.withFetchWord nbits w) rfl hword

/-- Settles O9: an idle step stays, and every event is served. -/
theorem everyStepHasANextState : Obligations.EveryStepHasANextState := by
  unfold Obligations.EveryStepHasANextState
  intro s
  cases hport : s.port with
  | nil => exact ⟨s, step_idle hport⟩
  | cons e rest =>
    rw [step_serve hport]
    exact serve_next e _

/-- Settles O10: with no event there is nothing to serve. -/
theorem idleStepChangesNothing : Obligations.IdleStepChangesNothing :=
  fun _ => step_idle

/-- Settles O22: both resets give the reset state with what waits at the port. -/
theorem resetClearsEveryRegister : Obligations.ResetClearsEveryRegister := by
  unfold Obligations.ResetClearsEveryRegister
  refine ⟨⟨rfl, rfl, rfl, rfl, rfl, rfl, rfl⟩, fun s v => ⟨?reset, ?during, rfl⟩⟩
  all_goals
    rw [step_arriveFirst]
    rfl

/-- Settles O23: the two writes differ in their answer, which no command reads. -/
theorem abortedCommandWriteStillCompletes : Obligations.AbortedCommandWriteStillCompletes := by
  unfold Obligations.AbortedCommandWriteStillCompletes
  intro s v
  refine ⟨_, step_commandWrite v s, ?_⟩
  rw [step_arriveFirst, serve, runCommand_eq, endCommand_response _ v (some .writeOkay)]
  rfl

end Sys2Proof.Proofs
end

section
/-! PROOFS, the family of spec/41_scaled_arith.md: ADD, SUB, MUL and DIV as exact arithmetic modulo 2^32 (R133 to R136), and
the laws that follow. First the pattern of a number as arithmetic on words, then the pattern of a shift, then the four
operations, then the statements. -/

namespace Sys2Proof.Proofs

open Sys2Proof.Machine
open Sys2Proof.Laws
open Sys2Proof.Safety

/-! ### The pattern of a number -/

@[simp] theorem pattern_add (a b : Int) : pattern (a + b) = pattern a + pattern b := BitVec.ofInt_add a b
@[simp] theorem pattern_mul (a b : Int) : pattern (a * b) = pattern a * pattern b := BitVec.ofInt_mul a b
@[simp] theorem pattern_neg (a : Int) : pattern (-a) = -pattern a := BitVec.ofInt_neg

@[simp] theorem pattern_sub (a b : Int) : pattern (a - b) = pattern a - pattern b := by
  rw [sub_eq_add_neg, pattern_add, pattern_neg, BitVec.sub_eq_add_neg]

/-- Narrowing to 32 bits or more before a register is written changes nothing. -/
theorem pattern_wrap_of_le {N : Nat} (hN : 32 ≤ N) (r : Int) : pattern (wrap N r) = pattern r := by
  apply BitVec.eq_of_toInt_eq
  simp only [pattern, BitVec.toInt_ofInt, wrap]
  exact_mod_cast Int.bmod_bmod_of_dvd (pow_dvd_pow 2 hN)

theorem fitsIn_32_sext (w : Word) : FitsIn 32 (sext w) := (fitsIn_32_iff _).mpr (sext_fits w)

/-- The product of two register values fits the 64-bit intermediate (R135). -/
theorem fitsIn_64_mul {a b : Int} (ha : Fits32 a) (hb : Fits32 b) : FitsIn 64 (a * b) := by
  have ha' : |a| ≤ 2 ^ 31 := abs_le.mpr ⟨ha.1, ha.2.trans (by decide)⟩
  have hb' : |b| ≤ 2 ^ 31 := abs_le.mpr ⟨hb.1, hb.2.trans (by decide)⟩
  have hab : |a * b| ≤ 2 ^ 31 * 2 ^ 31 := (abs_mul a b).trans_le (mul_le_mul ha' hb' (abs_nonneg b) (by decide))
  obtain ⟨hlow, hhigh⟩ := abs_le.mp hab
  constructor <;> omega

/-! ### The pattern of a shift -/

/-- What a shift of 32 bits or more leaves in a register is the exact rescaling: the left shift drops no bit that the
register keeps, and the right shift is the floor (R130). -/
theorem pattern_shift {N : Nat} (hN : 32 ≤ N) {v : Int} (hv : FitsIn N v) (d : Int) :
    pattern (shift N v d) = pattern (rescale v d) := by
  obtain hd | hd := lt_or_ge d 0
  · rw [shift_of_neg N v hd, pattern_wrap_of_le hN, rescale, if_pos hd]
  · rw [shift_of_nonneg hv hd, rescale, if_neg (by omega)]

/-- An operand aligned to 20 fractional bits (R133). -/
theorem pattern_align (k : OperandKind) (w : Word) :
    pattern (align (scaledOperand k w)) = pattern (rescale w.toInt (fracBits k - 20)) :=
  pattern_shift (le_refl 32) (fitsIn_32_sext w) _

@[simp] theorem align_scaledOperand_can (w : Word) : align (scaledOperand .can w) = sext w :=
  align_canonical (sext w)

/-! ### The four operations -/

/-- The end of a command whose result has a known pattern. -/
theorem exec_endsOk {i : Instr} {s : State} {r : Int} {w : Word} (h : outcome i s.opa s.opb s.opc = .ok r)
    (hw : pattern r = w) : exec i s = .next (endsOk w s) := by
  subst hw
  exact exec_of_outcome_ok h

theorem pattern_addScaled (x y : Scaled) : pattern (addScaled x y) = pattern (align x) + pattern (align y) := by
  simp [addScaled]

theorem pattern_subScaled (x y : Scaled) : pattern (subScaled x y) = pattern (align x) - pattern (align y) := by
  simp [subScaled]

theorem pattern_mulScaled {x y : Scaled} (hx : Fits32 x.raw) (hy : Fits32 y.raw) :
    pattern (mulScaled x y) = pattern (rescale (x.raw * y.raw) (x.frac + y.frac - 20)) := by
  rw [mulScaled, pattern_wrap]
  exact pattern_shift (by decide) (fitsIn_64_mul hx hy) _

theorem pattern_quotScaled (x y : Scaled) :
    pattern (quotScaled x y) =
      pattern (rescale (wrap 64 (Int.tdiv (x.raw * 2 ^ 32) y.raw)) (x.frac + 32 - y.frac - 20)) := by
  rw [quotScaled, pattern_wrap, pow2_eq]
  exact pattern_shift (by decide) (fitsIn_wrap (by decide) _) _

/-- ADD of two canonical operands is the addition of their words. -/
theorem exec_add_can (s : State) : exec (.add .can .can) s = .next (endsOk (s.opa + s.opb) s) :=
  exec_endsOk rfl (by simp [pattern_addScaled])

/-! ### The statements -/

/-- Settles O33: the sum narrows after each operand is aligned, and narrowing respects sums. -/
theorem addIsTheSumOfRescaledOperands : Obligations.AddIsTheSumOfRescaledOperands := by
  unfold Obligations.AddIsTheSumOfRescaledOperands
  intro ka kb s
  apply exec_endsOk rfl
  rw [pattern_addScaled, pattern_align, pattern_align, ← pattern_add]
  rfl

/-- Settles O34: as for the sum. -/
theorem subIsTheDifferenceOfRescaledOperands : Obligations.SubIsTheDifferenceOfRescaledOperands := by
  unfold Obligations.SubIsTheDifferenceOfRescaledOperands
  intro ka kb s
  apply exec_endsOk rfl
  rw [pattern_subScaled, pattern_align, pattern_align, ← pattern_sub]
  rfl

/-- Settles O35: the product fits 64 bits, so its shift is the exact rescaling. -/
theorem mulIsTheRescaledProduct : Obligations.MulIsTheRescaledProduct := by
  unfold Obligations.MulIsTheRescaledProduct
  intro ka kb s
  exact exec_endsOk rfl (pattern_mulScaled (sext_fits s.opa) (sext_fits s.opb))

/-- Settles O36: past the zero test, the wrapped quotient fits 64 bits, so its shift is the exact rescaling. -/
theorem divIsTheRescaledQuotient : Obligations.DivIsTheRescaledQuotient := by
  unfold Obligations.DivIsTheRescaledQuotient
  intro ka kb s hdivisor
  have hraw : (scaledOperand kb s.opb).raw ≠ 0 := BitVec.toInt_ne.mpr hdivisor
  exact exec_endsOk (if_neg hraw) (pattern_quotScaled _ _)

/-- Settles O38: both sums add the words of the aligned operands, and the hand-scaled word is the aligned operand's. -/
theorem crossScaleAddIsManualRescaling : Obligations.CrossScaleAddIsManualRescaling := by
  unfold Obligations.CrossScaleAddIsManualRescaling
  intro eb s
  refine ⟨_, _, exec_of_outcome_ok rfl, exec_add_can _, ?_⟩
  change pattern (addScaled (scaledOperand .can s.opa) (scaledOperand (.exp eb) s.opb)) = _
  rw [pattern_addScaled, align_scaledOperand_can, pattern_sext]
  rfl

end Sys2Proof.Proofs
end

section
/-! PROOFS, the family of spec/42_canonical_ops.md: the conversions, NEG, ABS, CMP, CLAMP and CONST on words (R170 to R178),
the laws that follow, and the constant tables (10_state.md R41, R42). First the number functions of these commands as
operations on words, then the statements. -/

namespace Sys2Proof.Proofs

open Sys2Proof.Machine
open Sys2Proof.Laws
open Sys2Proof.Safety

/-! ### The number functions on words -/

/-- A narrowed number is the value of its pattern. -/
theorem wrap_eq_sext {r : Int} {w : Word} (h : pattern r = w) : wrap 32 r = sext w := by
  rw [← sext_pattern, h]

/-- A product by a power of two is a left shift. -/
theorem pattern_sext_mul_pow (w : Word) (k : Nat) : pattern (sext w * 2 ^ k) = w <<< k := by
  have hpow : pattern (2 ^ k) = BitVec.twoPow 32 k := by
    apply BitVec.eq_of_toNat_eq
    rw [pattern, show (2 : Int) ^ k = ((2 ^ k : Nat) : Int) by norm_cast, BitVec.ofInt_natCast, BitVec.toNat_twoPow,
      BitVec.toNat_ofNat]
  rw [pattern_mul, pattern_sext, hpow, BitVec.shiftLeft_eq_mul_twoPow]

/-- FROM_I32 is a left shift by 20 (R172). -/
theorem fromInteger_sext (w : Word) : fromInteger (sext w) = sext (w <<< 20) := by
  rw [fromInteger, pow2_eq]
  exact wrap_eq_sext (pattern_sext_mul_pow w 20)

/-- A floor by a power of two is an arithmetic right shift (00_scope.md R10). -/
theorem asr_sext (w : Word) (k : Nat) : asr (sext w) k = sext (w.sshiftRight k) := by
  rw [sext, sext, BitVec.toInt_sshiftRight, Int.shiftRight_eq_div_pow, asr, pow2]

theorem pattern_asr_sext (w : Word) (k : Nat) : pattern (asr (sext w) k) = w.sshiftRight k := by
  rw [asr_sext, pattern_sext]

/-- The wrapped magnitude is the word's negation when the sign bit is set (R176). -/
theorem pattern_wabs_sext (w : Word) : pattern (wabs (sext w)) = if w.msb then -w else w := by
  rw [wabs, BitVec.msb_eq_toInt]
  by_cases hneg : w.toInt < 0
  · simp [hneg]
  · simp [hneg]

/-- Comparison of the signed values (R177). -/
theorem pattern_compareRaw_sext (a b : Word) :
    pattern (compareRaw (sext a) (sext b)) =
      if a.slt b then 0xFFFFFFFF#32 else if a = b then 0#32 else 1#32 := by
  rw [compareRaw, BitVec.slt_eq_decide]
  simp only [decide_eq_true_eq, BitVec.toInt_inj]
  split_ifs <;> rfl

/-- The quotient of FROM_DECIMAL, within the range of its second operand (R173). -/
theorem fromDecimalResult_of_range (w : Int) {dp : Int} (hlow : 0 ≤ dp) (hhigh : dp ≤ 18) :
    fromDecimalResult w dp = .ok (wrap 32 (Int.tdiv (w * 2 ^ 32) (10 ^ dp.toNat) / 2 ^ 12)) := by
  rw [fromDecimalResult, if_neg (by omega)]
  simp [tdiv, asr, pow2_eq, Config.F]

/-- CLAMP on bounds that are not reversed (R178). -/
theorem clampResult_of_le {a mn mx : Int} (h : mn ≤ mx) :
    clampResult a mn mx =
      .ok (if a < fromInteger mn then fromInteger mn else if fromInteger mx < a then fromInteger mx else a) := by
  rw [clampResult, if_neg (by omega)]
  simp only [gt_iff_lt]
  split_ifs <;> rfl

/-- An integer that a canonical value can hold converts exactly. -/
theorem fromInteger_of_range {i : Int} (hlow : -2048 ≤ i) (hhigh : i ≤ 2047) : fromInteger i = i * 2 ^ 20 := by
  rw [fromInteger, pow2_eq]
  exact wrap_of_fits (by unfold Fits32 Config.F; omega)

/-! ### The commands on words -/

theorem exec_fromI32 (s : State) : exec .fromI32 s = .next (endsOk (s.opa <<< 20) s) :=
  exec_endsOk rfl (by rw [fromInteger_sext, pattern_sext])

theorem exec_toI32 (s : State) : exec .toI32 s = .next (endsOk (s.opa.sshiftRight 20) s) :=
  exec_endsOk rfl (pattern_asr_sext s.opa 20)

theorem exec_neg (s : State) : exec .neg s = .next (endsOk (-s.opa) s) :=
  exec_endsOk rfl (by simp)

/-- An integer that converts exactly comes back (R172, R174). -/
theorem sshiftRight_shiftLeft_of_range {w : Word} (hlow : -2048 ≤ w.toInt) (hhigh : w.toInt ≤ 2047) :
    (w <<< 20).sshiftRight 20 = w := by
  have hexact : sext (w <<< 20) = sext w * 2 ^ 20 := by
    rw [← fromInteger_sext, fromInteger_of_range hlow hhigh]
  rw [← pattern_asr_sext, hexact, asr, pow2_eq, Int.mul_ediv_cancel _ (by decide), pattern_sext]

/-! ### The statements -/

/-- Settles O42: each conversion of a word's value is an operation on the word. -/
theorem conversionsOnPatterns : Obligations.ConversionsOnPatterns := by
  unfold Obligations.ConversionsOnPatterns
  intro s
  exact ⟨exec_endsOk rfl (pattern_sext s.opa), exec_fromI32 s, exec_toI32 s⟩

/-- Settles O43: each number function of the words' values is an operation on the words. -/
theorem negAbsCmpOnPatterns : Obligations.NegAbsCmpOnPatterns := by
  unfold Obligations.NegAbsCmpOnPatterns
  intro s
  exact ⟨exec_neg s, exec_endsOk rfl (pattern_wabs_sext s.opa), exec_endsOk rfl (pattern_compareRaw_sext s.opa s.opb)⟩

/-- Settles O44: in the range of its second operand FROM_DECIMAL divides, and the register narrows. -/
theorem fromDecimalInRange : Obligations.FromDecimalInRange := by
  unfold Obligations.FromDecimalInRange
  intro s hlow hhigh
  exact exec_endsOk (fromDecimalResult_of_range (sext s.opa) hlow hhigh) (pattern_wrap _)

/-- Settles O46: on words the bounds are shifted operands; bounds that convert exactly are in order, so clamping is the
clamp of the numbers. -/
theorem clampOnPatterns : Obligations.ClampOnPatterns := by
  unfold Obligations.ClampOnPatterns
  intro s hle
  have houtcome : outcome .clamp s.opa s.opb s.opc = _ := clampResult_of_le hle
  refine ⟨exec_endsOk houtcome ?words, fun hlow hhigh => exec_endsOk houtcome ?numbers⟩
  case words =>
    simp only [fromInteger_sext, BitVec.slt_eq_decide, decide_eq_true_eq]
    split_ifs <;> exact pattern_sext _
  case numbers =>
    rw [fromInteger_of_range hlow (hle.trans hhigh), fromInteger_of_range (hlow.trans hle) hhigh]
    apply congrArg
    simp only [sext]
    split_ifs <;> omega

/-- Settles O39: each law is the law of words for the command's operation on words. -/
theorem canonicalLaws : Obligations.CanonicalLaws := by
  unfold Obligations.CanonicalLaws
  refine ⟨fun s hlow hhigh => ?roundTrip, fun s hzero => ?zero, fun s => ?negation, fun s hone => ?one⟩
  case roundTrip =>
    exact ⟨_, _, exec_fromI32 s, exec_toI32 _, sshiftRight_shiftLeft_of_range hlow hhigh⟩
  case zero => rw [exec_add_can, hzero, BitVec.add_zero]
  case negation => exact ⟨_, _, exec_neg s, exec_add_can _, BitVec.add_right_neg s.opa⟩
  case one =>
    have hraw : s.opb.toInt = 2 ^ 20 := by rw [hone]; decide
    have hrescale : rescale (s.opa.toInt * 2 ^ 20) (fracBits .can + fracBits .can - 20) = s.opa.toInt :=
      Int.mul_ediv_cancel _ (by decide)
    rw [mulIsTheRescaledProduct .can .can s, hraw, hrescale, BitVec.ofInt_toInt]

/-- Settles O40: the table's numbers have these patterns. -/
theorem constLoadsTheNamedWord : Obligations.ConstLoadsTheNamedWord := by
  unfold Obligations.ConstLoadsTheNamedWord
  intro s
  exact ⟨rfl, rfl, rfl, rfl, rfl, rfl, rfl⟩

/-- Settles O41, by computing each formula. -/
theorem constantTablesFollowTheirFormulas : Obligations.ConstantTablesFollowTheirFormulas := by
  unfold Obligations.ConstantTablesFollowTheirFormulas
  decide

end Sys2Proof.Proofs
end

section
/-! PROOFS, the family of spec/43_sine.md: the sine engines on words (R212, R214) and the symmetries of SIN. First the
canonical functions as operations on words, then the range reduction and the polynomials, then the reduced angles that two
symmetric operands have, then the statements. -/

namespace Sys2Proof.Proofs

open Sys2Proof.Machine
open Sys2Proof.Laws
open Sys2Proof.Safety

/-! ### The canonical functions on words -/

theorem cadd_sext (a b : Word) : cadd (sext a) (sext b) = sext (a + b) := by
  rw [cadd_eq]
  exact wrap_eq_sext (by simp)

theorem csub_sext (a b : Word) : csub (sext a) (sext b) = sext (a - b) := by
  rw [csub_eq]
  exact wrap_eq_sext (by simp)

@[simp] theorem pattern_cneg (a : Int) : pattern (cneg a) = -pattern a := by
  rw [cneg, pattern_wrap, pattern_neg]

theorem cneg_sext (a : Word) : cneg (sext a) = sext (-a) :=
  wrap_eq_sext (by simp)

/-- The 64-bit product of two words is exact. -/
theorem toInt_signExtend_mul (a b : Word) : (a.signExtend 64 * b.signExtend 64).toInt = a.toInt * b.toInt := by
  rw [BitVec.toInt_mul, BitVec.toInt_signExtend_of_le (by decide), BitVec.toInt_signExtend_of_le (by decide)]
  obtain ⟨hlow, hhigh⟩ : FitsIn 64 (a.toInt * b.toInt) := fitsIn_64_mul (sext_fits a) (sext_fits b)
  exact Int.bmod_eq_of_le (by omega) (by omega)

/-- The low 32 bits of a 64-bit word are the pattern of its value. -/
theorem setWidth_eq_pattern (x : BitVec 64) : x.setWidth 32 = pattern x.toInt :=
  calc x.setWidth 32 = pattern x.toNat := by rw [pattern, BitVec.ofInt_natCast, BitVec.ofNat_toNat]
    _ = pattern (wrap 64 x.toNat) := (pattern_wrap_of_le (by decide) _).symm
    _ = pattern x.toInt := by rw [wrap, BitVec.toInt_eq_toNat_bmod]

theorem cmul_sext (a b : Word) : cmul (sext a) (sext b) = sext (busMul a b) := by
  rw [cmul_eq]
  apply wrap_eq_sext
  rw [busMul, setWidth_eq_pattern, BitVec.toInt_sshiftRight, toInt_signExtend_mul, Int.shiftRight_eq_div_pow,
    shift_of_nonneg (fitsIn_64_mul (sext_fits a) (sext_fits b)) (by decide)]
  rfl

/-! ### The engines on words -/

theorem reduceAngle_sext (halfTurn quarterTurn t : Word) :
    reduceAngle (sext halfTurn) (sext quarterTurn) (sext t) =
      ⟨(busReduce halfTurn quarterTurn t).1, sext (busReduce halfTurn quarterTurn t).2⟩ := by
  have hselect : ∀ p q : Word, ∀ c : Prop, [Decidable c] → (if c then sext p else sext q) = sext (if c then p else q) :=
    fun p q c _ => (apply_ite sext c p q).symm
  simp only [reduceAngle, busReduce, BitVec.slt_eq_decide, BitVec.sle_eq_decide, decide_eq_true_eq, gt_iff_lt, ge_iff_le,
    csub_sext, hselect]

theorem applySign_sext (neg : Bool) (w : Word) : applySign neg (sext w) = sext (if neg then -w else w) := by
  cases neg
  · rfl
  · exact cneg_sext w

theorem sinePolynomial_sext (t : Word) : sinePolynomial (sext t) = sext (busSinePolynomial t) := by
  have h3 : rawRc23 = sext 0x0002AAAB#32 := by decide
  have h5 : rawRc45 = sext 0x0000CCCD#32 := by decide
  have h7 : rawRc67 = sext 0x00006186#32 := by decide
  have h9 : rawRc89 = sext 0x000038E4#32 := by decide
  simp only [sinePolynomial, h3, h5, h7, h9, cmul_sext, csub_sext, cadd_sext, busSinePolynomial]

theorem sine_sext (t : Word) : sine (sext t) = sext (busSine t) := by
  have hpi : rawPi = sext 0x003243F7#32 := by decide
  have hhpi : rawHpi = sext 0x001921FB#32 := by decide
  rw [sine, hpi, hhpi, reduceAngle_sext, sinePolynomial_sext, applySign_sext]
  rfl

theorem closedForm_sext (u : Word) : closedForm Config.build (sext u) = sext
    (busMul ((u <<< 2).sshiftRight 1) (0x003243F7#32 - busMul (busMul (u <<< 2) (u <<< 2))
      (0x00141B2F#32 - busMul (busMul (u <<< 2) (u <<< 2)) 0x0010C152#32))) := by
  have hremap : shift 32 (sext u) (-((Config.build.dlRemapShift : Nat) : Int)) = sext (u <<< 2) := by
    rw [shift_of_neg 32 (sext u) (by decide)]
    exact wrap_eq_sext (pattern_sext_mul_pow u 2)
  have ha : rawDla = sext 0x003243F7#32 := by decide
  have hb : rawDlb = sext 0x00141B2F#32 := by decide
  have hc : rawDlc = sext 0x0010C152#32 := by decide
  simp only [closedForm, hremap, ha, hb, hc, cmul_sext, csub_sext, asr_sext]

theorem sineDimless_sext (u : Word) : sineDimless Config.build (sext u) = sext (busSineDimless u) := by
  have hhalf : rawHalf = sext 0x00080000#32 := by decide
  have hquarter : rawQuarter = sext 0x00040000#32 := by decide
  rw [sineDimless, hhalf, hquarter, reduceAngle_sext, closedForm_sext, applySign_sext]
  rfl

/-! ### Symmetric operands -/

/-- On `[0, PI]` there is nothing to flip, and an angle below a quarter turn is its own reduction. -/
theorem sine_of_le_pi {t : Int} (hlow : 0 ≤ t) (hhigh : t ≤ 3294199) :
    sine t = sinePolynomial (if 1647099 ≤ t then 3294199 - t else t) := by
  have hflip : ¬ t > rawPi := by unfold rawPi; omega
  have hreflect : csub rawPi t = 3294199 - t := by
    rw [csub_eq]
    exact wrap_of_fits (by unfold Fits32 rawPi; omega)
  simp [sine, reduceAngle, hflip, applySign, hreflect, rawHpi]

/-- Above half a turn SIN is the negated SIN of the angle half a turn lower. -/
theorem sine_of_gt_pi {t : Int} (hlow : 3294199 < t) (hhigh : t ≤ 6588398) : sine t = cneg (sine (t - 3294199)) := by
  have hflip : t > rawPi := hlow
  have hlower : csub t rawPi = t - 3294199 := by
    rw [csub_eq]
    exact wrap_of_fits (by unfold Fits32 rawPi; omega)
  have hnoflip : ¬ t - 3294199 > rawPi := by unfold rawPi; omega
  simp [sine, reduceAngle, hflip, hnoflip, applySign, hlower]

/-- `PI` is odd, so the two raw values next to a quarter turn reduce to different angles; the polynomial is equal on them. -/
theorem sinePolynomial_quarterTurn : sinePolynomial 1647100 = sinePolynomial 1647099 := by
  decide

/-- SIN is symmetric about a quarter turn. -/
theorem sine_pi_sub {t : Int} (hlow : 0 ≤ t) (hhigh : t ≤ 3294199) : sine (3294199 - t) = sine t := by
  rw [sine_of_le_pi (by omega) (by omega), sine_of_le_pi hlow hhigh]
  by_cases hbelow : t = 1647099
  · subst hbelow
    exact sinePolynomial_quarterTurn.symm
  by_cases habove : t = 1647100
  · subst habove
    exact sinePolynomial_quarterTurn
  -- Away from the quarter turn, both angles reduce to the smaller of the two.
  congr 1
  split_ifs <;> omega

/-- SIN is odd about half a turn. -/
theorem pattern_sine_tau_sub {t : Int} (hlow : 0 ≤ t) (hhigh : t ≤ 6588398) :
    pattern (sine (6588398 - t)) = -pattern (sine t) := by
  obtain hlt | rfl | hgt := lt_trichotomy t 3294199
  · rw [sine_of_gt_pi (by omega) (by omega), pattern_cneg, show 6588398 - t - 3294199 = 3294199 - t by omega,
      sine_pi_sub hlow hlt.le]
  · decide
  · rw [sine_of_gt_pi hgt hhigh, pattern_cneg, neg_neg, ← sine_pi_sub (by omega) (by omega)]
    congr 2
    omega

/-- Subtracting an operand from an angle that is not below it does not wrap. -/
theorem sext_sub_of_le {a b : Word} (hlow : 0 ≤ b.toInt) (hle : b.toInt ≤ a.toInt) : sext (a - b) = a.toInt - b.toInt := by
  have hhigh : a.toInt ≤ 2147483647 := (sext_fits a).2
  have hfits : Fits32 (a.toInt - b.toInt) := by unfold Fits32; omega
  rw [← csub_sext, csub_eq]
  exact wrap_of_fits hfits

/-! ### The statements -/

/-- Settles O48: the engine on a word's value is the datapath on the word. -/
theorem sinIsTheFixedWidthDatapath : Obligations.SinIsTheFixedWidthDatapath := by
  unfold Obligations.SinIsTheFixedWidthDatapath
  intro s
  exact exec_endsOk rfl (by rw [sine_sext, pattern_sext])

/-- Settles O49: likewise, with the built remap. -/
theorem sinDimlessIsTheFixedWidthDatapath : Obligations.SinDimlessIsTheFixedWidthDatapath := by
  unfold Obligations.SinDimlessIsTheFixedWidthDatapath
  intro s
  exact exec_endsOk rfl (by rw [sineDimless_sext, pattern_sext])

/-- Settles O50: subtracting a word in range subtracts its value, and the engine has the symmetries on values. -/
theorem sinSymmetries : Obligations.SinSymmetries := by
  unfold Obligations.SinSymmetries
  intro s t hexec
  have hsin : ∀ s : State, exec .sin s = .next (endsOk (pattern (sine (sext s.opa))) s) := fun s => exec_of_outcome_ok rfl
  rw [hsin] at hexec
  cases hexec
  refine ⟨fun hlow hhigh => ⟨_, hsin _, ?quarter⟩, fun hlow hhigh => ⟨_, hsin _, ?half⟩⟩
  case quarter =>
    have hsub : sext (0x003243F7#32 - s.opa) = 3294199 - sext s.opa := sext_sub_of_le hlow hhigh
    exact congrArg pattern ((congrArg sine hsub).trans (sine_pi_sub hlow hhigh))
  case half =>
    have hsub : sext (0x006487EE#32 - s.opa) = 6588398 - sext s.opa := sext_sub_of_le hlow hhigh
    exact (congrArg (pattern ∘ sine) hsub).trans (pattern_sine_tau_sub hlow hhigh)

end Sys2Proof.Proofs
end

section
/-! PROOFS, the family of spec/44_reciprocal.md: INVERSE and INV_I32 (R240 to R250). First the sign and the search for an
exponent, then the series without its loop, then the first Newton-Raphson iterate within the threshold, then the cases of the
dispatcher on the magnitude, then the statements. -/

namespace Sys2Proof.Proofs

open Sys2Proof.Machine
open Sys2Proof.Laws
open Sys2Proof.Safety

/-! ### The sign -/

theorem pattern_applySign (neg : Bool) (v : Int) :
    pattern (applySign neg v) = if neg then -pattern v else pattern v := by
  cases neg
  · rfl
  · exact pattern_cneg v

/-- A nonzero operand and its negation have opposite signs. -/
theorem pattern_applySign_neg {x : Int} (hx : x ≠ 0) (v : Int) :
    pattern (applySign (decide (-x < 0)) v) = -pattern (applySign (decide (x < 0)) v) := by
  simp only [pattern_applySign, decide_eq_true_eq]
  split_ifs
  · omega
  · rfl
  · rw [neg_neg]
  · omega

/-! ### The search for an exponent (R244, R247) -/

/-- If `p` holds within the search's range, the search gives the least index from which on it was sought. -/
theorem leastFrom_spec {p : Nat → Bool} {fuel n : Nat} (h : ∃ k, n ≤ k ∧ k < n + fuel ∧ p k = true) :
    p (leastFrom p fuel n) = true ∧ n ≤ leastFrom p fuel n ∧ ∀ j, n ≤ j → p j = true → leastFrom p fuel n ≤ j := by
  induction fuel generalizing n with
  | zero =>
    obtain ⟨k, hlow, hhigh, -⟩ := h
    omega
  | succ fuel ih =>
    rw [leastFrom]
    split_ifs with hn
    · exact ⟨hn, le_refl n, fun j hj _ => hj⟩
    · have hne : ∀ j, n ≤ j → p j = true → n + 1 ≤ j := by
        intro j hj hpj
        have : n ≠ j := by
          rintro rfl
          exact hn hpj
        omega
      obtain ⟨k, hlow, hhigh, hk⟩ := h
      obtain ⟨hp, hle, hleast⟩ := ih ⟨k, hne k hlow hk, by omega, hk⟩
      exact ⟨hp, by omega, fun j hj hpj => hleast j (hne j hj hpj) hpj⟩

/-- A search from 0 gives the least index of all: the one before it, if there is one, will not do. -/
theorem leastFrom_zero_spec {p : Nat → Bool} {k : Nat} (hk : k < searchFuel) (hp : p k = true) :
    ∃ n, leastFrom p searchFuel 0 = n ∧ n ≤ k ∧ p n = true ∧ (n = 0 ∨ p (n - 1) = false) := by
  obtain ⟨hfound, -, hleast⟩ := leastFrom_spec (p := p) (fuel := searchFuel) (n := 0) ⟨k, Nat.zero_le k, by omega, hp⟩
  refine ⟨_, rfl, hleast k (Nat.zero_le k) hp, hfound, ?_⟩
  rw [← Bool.not_eq_true, or_iff_not_imp_left]
  intro hne hbelow
  have := hleast _ (Nat.zero_le _) hbelow
  omega

/-- `EXP2CEIL` is the rounded-up exponent (R244). -/
theorem exp2Ceil_spec {m k : Nat} (hk : k < searchFuel) (hm : m ≤ 2 ^ k) :
    exp2Ceil m ≤ k ∧ m ≤ 2 ^ exp2Ceil m ∧ (exp2Ceil m = 0 ∨ 2 ^ (exp2Ceil m - 1) < m) := by
  have hle : ∀ n, decide (pow2 n ≥ (m : Int)) = decide (m ≤ 2 ^ n) := by
    intro n
    simp only [pow2, ge_iff_le, Int.ofNat_le]
  obtain ⟨n, hn, hbound, hfound, hbelow⟩ :=
    leastFrom_zero_spec (p := fun n => decide (pow2 n ≥ (m : Int))) hk (by rw [hle]; exact decide_eq_true hm)
  rw [hle, decide_eq_true_eq] at hfound
  rw [hle, decide_eq_false_iff_not, not_le] at hbelow
  rw [exp2Ceil, hn]
  exact ⟨hbound, hfound, hbelow⟩

/-! ### The series without its loop (R245) -/

/-- The terms after the first are those of the series that begins with the second. -/
theorem seriesTerm_tail (taylor mb : Int) (k : Nat) :
    seriesTerm (cmul taylor mb) mb k = seriesTerm taylor mb (k + 1) := by
  induction k with
  | zero => rfl
  | succ k ih => exact congrArg (cmul · mb) ih

theorem seriesSum_tail (taylor mb : Int) (n : Nat) :
    taylor + seriesSum (cmul taylor mb) mb n = seriesSum taylor mb (n + 1) := by
  induction n with
  | zero => simp [seriesSum, seriesTerm]
  | succ n ih => rw [seriesSum, ← add_assoc, ih, seriesTerm_tail, ← seriesSum]

/-- `j` terms are summed when the budget ends there or term `j` is the first below the threshold. -/
def StopsAfter (taylor mb : Int) (budget j : Nat) : Prop :=
  1 ≤ j ∧ j ≤ budget ∧ (j = budget ∨ wabs (seriesTerm taylor mb j) < 100) ∧
    ∀ k, 1 ≤ k → k < j → 100 ≤ wabs (seriesTerm taylor mb k)

/-- The series that goes on after its first term stops one term later than its tail. -/
theorem StopsAfter.succ {taylor mb : Int} {budget j : Nat} (hterm : 100 ≤ wabs (cmul taylor mb))
    (h : StopsAfter (cmul taylor mb) mb budget j) : StopsAfter taylor mb (budget + 1) (j + 1) := by
  obtain ⟨hlow, hhigh, hlast, hbefore⟩ := h
  rw [seriesTerm_tail] at hlast
  refine ⟨by omega, by omega, hlast.imp_left (congrArg Nat.succ), fun k hk hkj => ?_⟩
  obtain rfl | hk1 := Nat.eq_or_lt_of_le hk
  · exact hterm
  · obtain ⟨k', rfl⟩ : ∃ k', k = k' + 1 := ⟨k - 1, by omega⟩
    rw [← seriesTerm_tail]
    exact hbefore k' (by omega) (by omega)

/-- The loop sums the first `j` terms, each addition narrowed. -/
theorem seriesLoop_spec (mb : Int) (budget : Nat) (acc taylor : Int) :
    ∃ j, StopsAfter taylor mb (budget + 1) j ∧
      pattern (seriesLoop mb (budget + 1) acc taylor) = pattern (acc + seriesSum taylor mb j) := by
  induction budget generalizing acc taylor with
  | zero =>
    refine ⟨1, ⟨le_refl 1, le_refl 1, .inl rfl, fun k hk hk1 => by omega⟩, ?_⟩
    simp [seriesLoop, cadd_eq, seriesSum, seriesTerm]
  | succ budget ih =>
    by_cases hsmall : wabs (cmul taylor mb) < 100
    · refine ⟨1, ⟨le_refl 1, by omega, .inr hsmall, fun k hk hk1 => by omega⟩, ?_⟩
      rw [seriesLoop]
      simp [hsmall, Config.serTh, cadd_eq, seriesSum, seriesTerm]
    · obtain ⟨j, hstops, hsum⟩ := ih (cadd acc taylor) (cmul taylor mb)
      refine ⟨j + 1, hstops.succ (by omega), ?_⟩
      rw [seriesLoop, if_neg (by simpa [Config.serTh] using hsmall), hsum, ← seriesSum_tail]
      simp [cadd_eq, BitVec.add_assoc]

theorem series_spec (taylor mb : Int) :
    ∃ j, StopsAfter taylor mb 11 j ∧ pattern (series taylor mb) = pattern (seriesSum taylor mb j) := by
  obtain ⟨j, hstops, hsum⟩ := seriesLoop_spec mb 10 0 taylor
  exact ⟨j, hstops, by rwa [zero_add] at hsum⟩

/-! ### Newton-Raphson (R246) -/

/-- The loop answers the first iterate within the threshold of the one before. -/
theorem newtonLoop_of_first_meets {m seed : Int} {budget k : Nat} (hk : k < budget) (hmeets : newtonMeets m seed k)
    (hfirst : ∀ j, j < k → ¬ newtonMeets m seed j) :
    newtonLoop m budget seed = some (newtonIterate m seed (k + 1)) := by
  induction budget generalizing seed k with
  | zero => omega
  | succ budget ih =>
    rw [newtonLoop]
    cases k with
    | zero => exact if_pos hmeets
    | succ k =>
      refine (if_neg (hfirst 0 (by omega))).trans ?_
      rw [← newtonIterate_newtonStep]
      exact ih (by omega) ((newtonMeets_newtonStep ..).mpr hmeets)
        fun j hj => (newtonMeets_newtonStep ..).not.mpr (hfirst (j + 1) (by omega))

theorem newton_of_first_meets (b : Config.Build) {m : Int} {k : Nat} (hk : k < 8)
    (hmeets : newtonMeets m (seedValue b.nrSeed m) k) (hfirst : ∀ j, j < k → ¬ newtonMeets m (seedValue b.nrSeed m) j) :
    newton b m = some (newtonIterate m (seedValue b.nrSeed m) (k + 1)) :=
  newtonLoop_of_first_meets (budget := Config.nrMax) hk hmeets hfirst

/-! ### The dispatcher on the magnitude (R240) -/

/-- Cases 2 to 5 of the dispatcher, which see the magnitude alone. -/
def magnitudeResult (b : Config.Build) (m : Int) : Option Int :=
  if m = rawOne then some rawOne
  else if m ≤ Config.satThreshold then some rawSatmax
  else if m > rawOne then some (inverseSeries m)
  else newton b m

/-- The sign reapplied to a result, if there is one. -/
def signedResult (neg : Bool) : Option Int → Result
  | some v => .ok (applySign neg v)
  | none => .err .convergenceFailure

/-- Whether there is a result does not depend on the sign. -/
theorem codeOf_signedResult (neg neg' : Bool) (o : Option Int) :
    codeOf (signedResult neg o) = codeOf (signedResult neg' o) := by
  cases o <;> rfl

/-- The sign of a nonzero operand is split off, and the rest is a function of the magnitude. -/
theorem inverseResult_of_ne_zero (b : Config.Build) {x : Int} (hx : x ≠ 0) :
    inverseResult b x = signedResult (decide (x < 0)) (magnitudeResult b (wabs x)) := by
  unfold inverseResult magnitudeResult
  dsimp only
  rw [if_neg hx]
  split_ifs
  · rfl
  · rfl
  · rfl
  · cases newton b (wabs x) <;> rfl

theorem natAbs_lt_of_ne_least {w : Word} (h : w ≠ 0x80000000#32) : w.toInt.natAbs < 2147483648 := by
  obtain ⟨hlow, hhigh⟩ : Fits32 w.toInt := sext_fits w
  have hne : w.toInt ≠ -2147483648 := fun hw => h (BitVec.eq_of_toInt_eq hw)
  omega

/-- INVERSE of a nonzero operand but the least one, by its magnitude. -/
theorem outcome_inverse_of_magnitude {x : Word} {m : Nat} (hm : m = x.toInt.natAbs) (hlow : 0 < m) (hhigh : m < 2147483648)
    (b c : Word) :
    outcome .inverse x b c = signedResult (decide (x.toInt < 0)) (magnitudeResult Config.build m) := by
  have hne : x.toInt ≠ 0 := by omega
  have hleast : x.toInt ≠ -2147483648 := by omega
  have hmag : wabs x.toInt = m := by
    rw [hm]
    exact wabs_eq_natAbs (sext_fits x) hleast
  rw [outcome, inverseResult_of_ne_zero _ hne, hmag]

/-- INVERSE of an operand whose magnitude has a result. -/
theorem exec_inverse_of_magnitude {s : State} {m : Nat} {v : Int} (hm : m = s.opa.toInt.natAbs) (hlow : 0 < m)
    (hhigh : m < 2147483648) (hv : magnitudeResult Config.build m = some v) :
    exec .inverse s = .next (endsOk (if s.opa.toInt < 0 then -pattern v else pattern v) s) := by
  have houtcome := outcome_inverse_of_magnitude hm hlow hhigh s.opb s.opc
  rw [hv] at houtcome
  exact exec_endsOk houtcome (by simp [pattern_applySign])

theorem magnitudeResult_one (b : Config.Build) : magnitudeResult b rawOne = some rawOne := if_pos rfl

/-- Case 4 takes the magnitudes above ONE. -/
theorem magnitudeResult_of_gt (b : Config.Build) {m : Int} (h : rawOne < m) :
    magnitudeResult b m = some (inverseSeries m) := by
  have hsat : ¬ m ≤ Config.satThreshold := by
    unfold Config.satThreshold
    unfold rawOne at h
    omega
  rw [magnitudeResult, if_neg h.ne', if_neg hsat, if_pos h]

/-- Case 5 takes the magnitudes from 2 up to ONE. -/
theorem magnitudeResult_of_lt (b : Config.Build) {m : Int} (hlow : 2 ≤ m) (hhigh : m < rawOne) :
    magnitudeResult b m = newton b m := by
  have hsat : ¬ m ≤ Config.satThreshold := by
    unfold Config.satThreshold
    omega
  rw [magnitudeResult, if_neg hhigh.ne, if_neg hsat, if_neg hhigh.not_gt]

/-! ### The centre of the series (R244, R250) -/

theorem fitsIn_32_rawOne : FitsIn 32 rawOne := by
  unfold FitsIn rawOne
  decide

/-- `ONE` shifted right by the exponent. -/
theorem shift_rawOne (n : Nat) : shift 32 rawOne n = 2 ^ 20 / 2 ^ n :=
  shift_of_nonneg fitsIn_32_rawOne (Int.natCast_nonneg n)

/-- Up to an exponent of 20 the shift is exact. -/
theorem shift_rawOne_of_le {n : Nat} (hn : n ≤ 20) : shift 32 rawOne n = 2 ^ (20 - n) := by
  rw [shift_rawOne]
  apply Int.ediv_eq_of_eq_mul_left (by positivity)
  rw [← pow_add, Nat.sub_add_cancel hn]

/-- The integer part of a magnitude. -/
theorem asr_natCast (m k : Nat) : asr m k = ((m / 2 ^ k : Nat) : Int) := by
  rw [asr, pow2, Int.natCast_ediv]

/-- Case 4 is the series about the power of two that the exponent `n` of the integer part gives (R240). -/
theorem inverseSeries_eq {m n : Nat} (hexp : exp2Ceil (m / 2 ^ 20 : Nat) = n) (hn : n ≤ 20) :
    inverseSeries m = series (2 ^ (20 - n)) (csub rawOne (cmul (2 ^ (20 - n)) m)) := by
  rw [← shift_rawOne_of_le hn, ← hexp, ← asr_natCast]
  rfl

/-! ### Seeds (R247) -/

/-- The built seed rule: the power of two in `[1/(2m), 1/m)`. -/
theorem seedValue_halfBracket {m : Int} (hm : 2 ≤ m) :
    ∃ k : Nat, 1048576 ≤ m * 2 ^ (k + 1) ∧ (k = 0 ∨ m * 2 ^ k < 1048576) ∧
      seedValue .halfBracket m = wrap 32 (1048576 * 2 ^ k) := by
  obtain ⟨k, hk, -, hfound, hbelow⟩ := leastFrom_zero_spec (p := fun k => decide (m * pow2 (k + 1) ≥ rawOne)) (k := 18)
    (by decide) (by simp only [decide_eq_true_eq, pow2_eq, rawOne]; omega)
  simp only [decide_eq_true_eq, decide_eq_false_iff_not, pow2_eq, rawOne, not_le, ge_iff_le] at hfound hbelow
  refine ⟨k, hfound, ?below, by rw [seedValue, hk, pow2_eq, rawOne]⟩
  case below =>
    cases k with
    | zero => exact .inl rfl
    | succ k => exact hbelow

/-- The rule above: the power of two in `[1/m, 2/m)`. -/
theorem seedValue_above {m : Int} (hm : 2 ≤ m) :
    ∃ k : Nat, 1048576 ≤ m * 2 ^ k ∧ (k = 0 ∨ m * 2 ^ (k - 1) < 1048576) ∧
      seedValue .above m = wrap 32 (1048576 * 2 ^ k) := by
  obtain ⟨k, hk, -, hfound, hbelow⟩ := leastFrom_zero_spec (p := fun k => decide (m * pow2 k ≥ rawOne)) (k := 19)
    (by decide) (by simp only [decide_eq_true_eq, pow2_eq, rawOne]; omega)
  simp only [decide_eq_true_eq, decide_eq_false_iff_not, pow2_eq, rawOne, not_le, ge_iff_le] at hfound hbelow
  exact ⟨k, hfound, hbelow, by rw [seedValue, hk, pow2_eq, rawOne]⟩

/-- The literal loop doubles once or not at all. -/
theorem seedValue_literal {m : Int} (hlow : 2 ≤ m) (hhigh : m < 1048576) :
    seedValue .literal m = if m < 524288 then 1048576 else 2097152 := by
  rw [seedValue, searchFuel, literalSeed, rawOne]
  split_ifs with h1 h2 h2
  · omega
  · rw [literalSeed, if_neg (by omega)]
    rfl
  · rfl
  · omega

/-- Below a magnitude of 256 the built seed is a multiple of 2^32, which narrows to 0. -/
theorem seedValue_halfBracket_of_tiny {m : Int} (hlow : 2 ≤ m) (hhigh : m ≤ 255) : seedValue .halfBracket m = 0 := by
  obtain ⟨k, hfound, -, hseed⟩ := seedValue_halfBracket hlow
  have hk : 12 ≤ k := by
    by_contra hsmall
    have hpow : (2 : Int) ^ (k + 1) ≤ 2 ^ 12 := pow_le_pow_right₀ (by decide) (by omega)
    nlinarith
  rw [hseed, show (1048576 : Int) * 2 ^ k = 1 * 2 ^ (20 + k) by ring]
  exact wrap_mul_pow_of_le (by omega) 1

/-- From a guess of 0 the iteration does not move. -/
theorem newtonStep_zero (m : Int) : newtonStep m 0 = 0 := by
  rw [newtonStep, cmul_eq, zero_mul]
  decide

theorem newtonIterate_zero_one (m : Int) : newtonIterate m 0 1 = 0 := newtonStep_zero m

theorem newtonMeets_zero (m : Int) : newtonMeets m 0 0 := by
  rw [newtonMeets, newtonIterate_zero_one, newtonIterate]
  decide

/-- The magnitudes 256 to 512 have seeds of 2^30 or 2^31, the latter narrowed to a negative guess, and no iterate of theirs
settles within the budget. The 257 runs follow no formula, so the kernel makes them. -/
theorem newton_of_small : ∀ j : Fin 257, newton Config.build ((256 + j.val : Nat) : Int) = none := by
  decide +kernel

/-! ### The integer series (R250) -/

/-- INV_I32 of a magnitude of 2 or more, but for the sign. -/
def integerSeries (m : Int) : Int :=
  series (shift 32 rawOne (exp2Ceil m)) (csub rawOne (wrap 32 (shift 32 rawOne (exp2Ceil m) * m)))

theorem invInteger_of_one {d : Int} (h : d.natAbs = 1) : invInteger d = applySign (decide (d < 0)) rawOne := by
  have hd : d ≠ 0 := by omega
  simp [invInteger, hd, h]

theorem invInteger_of_two_le {d : Int} (h : 2 ≤ d.natAbs) :
    invInteger d = applySign (decide (d < 0)) (integerSeries d.natAbs) := by
  have hd : d ≠ 0 := by omega
  have hone : (d.natAbs : Int) ≠ 1 := by omega
  rw [invInteger, if_neg hd, if_neg hone]
  rfl

/-- On the canonical value of an integer, case 4 of INVERSE is the integer's series: the product with the centre is exact. -/
theorem inverseSeries_of_integer {m : Nat} (hhigh : m ≤ 2047) : inverseSeries (m * 2 ^ 20) = integerSeries m := by
  have hpart : asr ((m : Int) * 2 ^ 20) Config.F = m := by
    rw [asr, pow2_eq]
    exact Int.mul_ediv_cancel _ (by decide)
  have hproduct : ∀ t, FitsIn 32 t → cmul t (m * 2 ^ 20) = wrap 32 (t * m) := by
    intro t ht
    have hm : Fits32 ((m : Int) * 2 ^ 20) := by unfold Fits32; omega
    rw [cmul_eq, shift_of_nonneg (fitsIn_64_mul ((fitsIn_32_iff t).mp ht) hm) (by decide), ← mul_assoc]
    exact congrArg (wrap 32) (Int.mul_ediv_cancel _ (by decide))
  rw [inverseSeries, hpart, hproduct _ (fitsIn_shift (by decide) fitsIn_32_rawOne _)]
  rfl

/-- INV_I32 of a magnitude of 1 to 2047 is what the dispatcher gives on its canonical value. -/
theorem magnitudeResult_of_integer (b : Config.Build) {d : Int} (hlow : 1 ≤ d.natAbs) (hhigh : d.natAbs ≤ 2047) :
    ∃ v, invInteger d = applySign (decide (d < 0)) v ∧ magnitudeResult b (d.natAbs * 2 ^ 20) = some v := by
  obtain hone | htwo := Nat.eq_or_lt_of_le hlow
  · refine ⟨rawOne, invInteger_of_one hone.symm, ?_⟩
    rw [← hone]
    exact magnitudeResult_one b
  · refine ⟨_, invInteger_of_two_le htwo, ?_⟩
    rw [magnitudeResult_of_gt b (by unfold rawOne; omega), inverseSeries_of_integer hhigh]

/-! ### The statements -/

/-- Settles O51: cases 1 and 2 of the dispatcher. -/
theorem inverseOfZeroAndOne : Obligations.InverseOfZeroAndOne := by
  unfold Obligations.InverseOfZeroAndOne
  intro s
  refine ⟨fun h => exec_endsOk (r := 0) ?zero rfl, fun h => exec_endsOk (r := rawOne) ?one rfl,
    fun h => exec_endsOk (r := -rawOne) ?minusOne rfl⟩
  all_goals
    rw [h]
    rfl

/-- Settles O53: the magnitudes of case 4 have an exponent of 11 at most, and the loop is the truncated sum. -/
theorem inverseAboveOneIsATruncatedSeries : Obligations.InverseAboveOneIsATruncatedSeries := by
  unfold Obligations.InverseAboveOneIsATruncatedSeries
  intro s m hm hlow hhigh
  have hint : m / 2 ^ 20 ≤ 2 ^ 11 := by omega
  obtain ⟨hn, hfound, hbelow⟩ := exp2Ceil_spec (by decide) hint
  generalize hexp : exp2Ceil (m / 2 ^ 20 : Nat) = n at hn hfound hbelow
  have habove : magnitudeResult Config.build m = some (inverseSeries m) :=
    magnitudeResult_of_gt Config.build (by unfold rawOne; omega)
  have hexec := exec_inverse_of_magnitude hm (by omega) hhigh habove
  obtain ⟨j, ⟨hj1, hj11, hlast, hbefore⟩, hsum⟩ := series_spec (2 ^ (20 - n)) (csub rawOne (cmul (2 ^ (20 - n)) m))
  rw [inverseSeries_eq hexp (hn.trans (by decide)), hsum] at hexec
  exact ⟨n, j, hn, hfound, hbelow, hj1, hj11, hlast, hbefore, hexec⟩

/-- Settles O54: the loop answers the first iterate that meets the threshold, and fails when none does. -/
theorem inverseBelowOneIsNewtonRaphson : Obligations.InverseBelowOneIsNewtonRaphson := by
  unfold Obligations.InverseBelowOneIsNewtonRaphson
  intro s m hm hlow hhigh
  refine ⟨fun k hk hmeets hfirst => ?meets, fun hnever => ?never⟩
  case meets =>
    have hnewton := newton_of_first_meets Config.build hk hmeets hfirst
    rw [← magnitudeResult_of_lt Config.build (by omega) (by unfold rawOne; omega)] at hnewton
    exact exec_inverse_of_magnitude hm (by omega) (by omega) hnewton
  case never =>
    subst hm
    have hresult := (inverseResult_eq_convergenceFailure_iff Config.build (sext_fits s.opa)).mpr ⟨hlow, hhigh, hnever⟩
    exact exec_of_outcome_err (i := .inverse) hresult

/-- Settles O56: two searches give the least exponent, and the literal loop doubles at most once. -/
theorem seedRules : Obligations.SeedRules := by
  unfold Obligations.SeedRules
  intro m hlow hhigh
  exact ⟨seedValue_halfBracket hlow, seedValue_literal hlow hhigh, seedValue_above hlow⟩

/-- Settles O57: the built seed of a magnitude below 256 is 0, where the iteration stays, and the seeds of 256 to 512 lead
nowhere within the budget. -/
theorem inverseOfTinyMagnitudes : Obligations.InverseOfTinyMagnitudes := by
  unfold Obligations.InverseOfTinyMagnitudes
  intro s
  refine ⟨fun hlow hhigh => ?zero, fun hlow hhigh => ?fails⟩
  case zero =>
    obtain ⟨hmeets, -⟩ := inverseBelowOneIsNewtonRaphson s _ rfl hlow (by omega)
    have hseed : seedValue Config.build.nrSeed s.opa.toInt.natAbs = 0 :=
      seedValue_halfBracket_of_tiny (by omega) (by omega)
    rw [hseed] at hmeets
    rw [hmeets 0 (by decide) (newtonMeets_zero _) fun j hj => absurd hj j.not_lt_zero, newtonIterate_zero_one]
    simp
  case fails =>
    obtain ⟨-, hnever⟩ := inverseBelowOneIsNewtonRaphson s _ rfl (by omega) (by omega)
    apply hnever
    rw [← newton_eq_none_iff]
    have hrun := newton_of_small ⟨s.opa.toInt.natAbs - 256, by omega⟩
    rwa [Nat.add_sub_cancel' hlow] at hrun

/-- Settles O58: the two operands have one magnitude, and each result has its operand's sign. -/
theorem inverseIsOdd : Obligations.InverseIsOdd := by
  unfold Obligations.InverseIsOdd
  intro s t hleast hexec
  have hneg : (-s.opa).toInt = -s.opa.toInt := BitVec.toInt_neg_of_ne_intMin hleast
  by_cases hzero : s.opa = 0#32
  · obtain ⟨-, -, hreciprocals⟩ := divisionByZeroExactly
    obtain ⟨hinverse, -⟩ := hreciprocals s hzero
    obtain ⟨hinverse', -⟩ := hreciprocals { s with opa := -s.opa } (by rw [hzero]; rfl)
    rw [hinverse] at hexec
    cases hexec
    exact ⟨_, hinverse', rfl, fun _ => BitVec.neg_zero (n := 32) |>.symm⟩
  · have hne : s.opa.toInt ≠ 0 := BitVec.toInt_ne.mpr hzero
    have hpos : 0 < s.opa.toInt.natAbs := Int.natAbs_pos.mpr hne
    have hlt := natAbs_lt_of_ne_least hleast
    have houtcome := outcome_inverse_of_magnitude rfl hpos hlt s.opb s.opc
    have houtcome' := outcome_inverse_of_magnitude (x := -s.opa) (by rw [hneg, Int.natAbs_neg]) hpos hlt s.opb s.opc
    rw [exec_eq, houtcome] at hexec
    cases hexec
    refine ⟨_, (exec_eq .inverse { s with opa := -s.opa }).trans (by rw [houtcome']), ?code, ?res⟩
    case code =>
      rw [statusCode_endCommand, statusCode_endCommand]
      exact codeOf_signedResult ..
    case res =>
      rw [statusCode_endCommand, hneg]
      cases magnitudeResult Config.build s.opa.toInt.natAbs with
      | none => exact fun hcode => absurd hcode (errorNumber_ne_zero .convergenceFailure)
      | some v => exact fun _ => pattern_applySign_neg hne v

/-- Settles O59: the search gives the exponent, and the loop is the truncated sum. -/
theorem invI32IsATruncatedSeries : Obligations.InvI32IsATruncatedSeries := by
  unfold Obligations.InvI32IsATruncatedSeries
  intro s m hm
  have hbound : m ≤ 2 ^ 31 := by
    obtain ⟨hlow, hhigh⟩ : Fits32 s.opa.toInt := sext_fits s.opa
    omega
  refine ⟨fun hzero => ?zero, fun hone => ?one, fun htwo => ?series⟩
  case zero =>
    have hopa : sext s.opa = 0 := by rw [sext]; omega
    exact exec_endsOk (r := 0) (by rw [outcome, hopa, invInteger_zero]) rfl
  case one =>
    refine exec_endsOk (congrArg Result.ok (invInteger_of_one (hm.symm.trans hone))) ?_
    simp only [pattern_applySign, decide_eq_true_eq]
    rfl
  case series =>
    obtain ⟨hn, hfound, hbelow⟩ := exp2Ceil_spec (by decide) hbound
    have hpos : exp2Ceil m ≠ 0 := by
      intro hzero
      rw [hzero] at hfound
      omega
    have houtcome := invInteger_of_two_le (hm ▸ htwo)
    rw [← hm, integerSeries, shift_rawOne] at houtcome
    obtain ⟨j, ⟨hj1, hj11, hlast, hbefore⟩, hsum⟩ :=
      series_spec (2 ^ 20 / 2 ^ exp2Ceil m) (csub rawOne (wrap 32 (2 ^ 20 / 2 ^ exp2Ceil m * m)))
    refine ⟨exp2Ceil m, j, by omega, hn, hfound, hbelow.resolve_left hpos, hj1, hj11, hlast, hbefore, ?_⟩
    refine exec_endsOk (congrArg Result.ok houtcome) ?_
    simp only [pattern_applySign, decide_eq_true_eq, hsum]
    rfl

/-- Settles O60: the operand of INVERSE has the integer's sign and 2^20 times its magnitude. -/
theorem invI32AgreesWithInverse : Obligations.InvI32AgreesWithInverse := by
  unfold Obligations.InvI32AgreesWithInverse
  intro s hlow hhigh
  have hx : (s.opa <<< 20).toInt = s.opa.toInt * 2 ^ 20 :=
    (fromInteger_sext s.opa).symm.trans (fromInteger_of_range (i := s.opa.toInt) (by omega) (by omega))
  obtain ⟨v, hinteger, hmagnitude⟩ := magnitudeResult_of_integer Config.build hlow hhigh
  have houtcome := outcome_inverse_of_magnitude (x := s.opa <<< 20) (m := s.opa.toInt.natAbs * 2 ^ 20)
    (by omega) (by omega) (by omega) s.opb s.opc
  have hsign : (s.opa <<< 20).toInt < 0 ↔ s.opa.toInt < 0 := by omega
  rw [Nat.cast_mul, Nat.cast_pow, Nat.cast_ofNat, hmagnitude, decide_eq_decide.mpr hsign] at houtcome
  exact ⟨_, exec_endsOk (congrArg Result.ok hinteger) rfl,
    exec_of_outcome_ok (s := { s with opa := s.opa <<< 20 }) houtcome⟩

end Sys2Proof.Proofs
end
